-- ==== Sys2Proof/Word.lean ====
section
/-! DEFINITION. The word types of the register-driver block: a byte (R13), the 64-bit command and response words
(R80, R91), the 56-bit operand field and payload, and the number of device registers (R7, R50). -/

namespace Sys2Proof

/-- "A *byte* is an unsigned 8-bit value, 0 to 255" (R13). -/
abbrev Byte := BitVec 8

/-- A command word `CW` (R80) or a response word `RW` (R91). -/
abbrev Word64 := BitVec 64

/-- The operand field `CW[55:0]` (R80) or the payload `RW[55:0]` (R91). -/
abbrev Field56 := BitVec 56

/-- The 19 byte registers 0x00 to 0x12 of the device (R7, R50). -/
abbrev regCount : Nat := 19

end Sys2Proof
end

