-- ==== Sys2Proof/Config.lean ====
section
/-! DEFINITION. What an implementation or the environment fixes: the constants of R7, the bit masks of R8 with their
constraints (R9), the shape of one answer of the environment (R54, R55, R57), and the free values of the model (no body:
nothing can be proved of them). -/

namespace Sys2Proof

/-! ## Constants the source gives (R7, R52) -/

/-- `DEV_ADDR = 0x68`: the 7-bit bus address of the one device; the transport owns it, the block passes none (R51). -/
def Config.devAddr : BitVec 7 := 0x68

/-- `REG_LO = 0x00` (R7). -/
def Config.regLo : Nat := 0x00

/-- `REG_HI = 0x12` (R7). -/
def Config.regHi : Nat := 0x12

/-! ## Bit positions inside CONTROL and STATUS (R8, R9) -/

/-- The named parameters of R8: every operation rule is written over these names, never over a literal.
`rsMask` is computed from `rsShift` (R9). -/
structure Masks where
  /-- CONTROL, oscillator disabled when set -/
  eosc    : Byte
  /-- CONTROL, battery-backed square wave -/
  bbsqw   : Byte
  /-- CONTROL, forced temperature conversion -/
  conv    : Byte
  /-- position of the low bit of the two-bit rate selector -/
  rsShift : Nat
  /-- CONTROL, interrupt mode when set, square-wave mode when clear -/
  intcn   : Byte
  /-- CONTROL, alarm-2 interrupt enable -/
  a2ie    : Byte
  /-- CONTROL, alarm-1 interrupt enable -/
  a1ie    : Byte
  /-- STATUS, oscillator stopped -/
  osf     : Byte
  /-- STATUS, 32 kHz output enabled -/
  en32k   : Byte
  /-- STATUS, temperature conversion in progress -/
  bsy     : Byte
  /-- STATUS, alarm-2 match -/
  a2f     : Byte
  /-- STATUS, alarm-1 match -/
  a1f     : Byte
  deriving DecidableEq, Repr, Inhabited

/-- `RS_MASK = 0x3 << RS_SHIFT` (R8, R9). -/
def Masks.rsMask (m : Masks) : Byte := 0x3#8 <<< m.rsShift

/-- The seven CONTROL masks of R9. -/
def Masks.control (m : Masks) : List Byte := [m.eosc, m.bbsqw, m.conv, m.rsMask, m.intcn, m.a2ie, m.a1ie]

/-- The five STATUS masks of R9. -/
def Masks.status (m : Masks) : List Byte := [m.osf, m.en32k, m.bsy, m.a2f, m.a1f]

/-- "a byte with exactly one bit set" (R9). -/
def oneBit (b : Byte) : Bool := b != 0 && (b &&& (b - 1)) == 0

/-- "pairwise disjoint" (R9). -/
def disjointMasks (l : List Byte) : Bool := decide (l.Pairwise fun a b => a &&& b = 0)

/-- The constraints of R9. -/
def Masks.wf (m : Masks) : Bool :=
  [m.eosc, m.bbsqw, m.conv, m.intcn, m.a2ie, m.a1ie].all oneBit && decide (m.rsShift ≤ 6)
    && disjointMasks m.control && m.status.all oneBit && disjointMasks m.status

/-- PRESUMED, log entry 2: the defaults of R8, `[from general knowledge, not in source]` (G1). -/
def Config.defaultMasks : Masks where
  eosc := 0x80
  bbsqw := 0x40
  conv := 0x20
  rsShift := 3
  intcn := 0x04
  a2ie := 0x02
  a1ie := 0x01
  osf := 0x80
  en32k := 0x08
  bsy := 0x04
  a2f := 0x02
  a1f := 0x01

/-! ## One answer of the environment (R54, R55, R57) -/

/-- The three transport outcomes other than `OK` (R54). -/
inductive TransportFailure where
  | error
  | timeout
  | busy
  deriving DecidableEq, Repr, Inhabited

/-- "All four return one of: OK, generic error, timeout, busy" (R54, R201). -/
inductive TransportStatus where
  | ok
  | failed (f : TransportFailure)
  deriving DecidableEq, Repr, Inhabited

/-- What the environment does around one transaction (R57): `before` are the registers the device changes on its own in
the gap before it (R66 (e)), `status` is the answer, and `after` is what the device makes of its registers once an `OK`
transaction has been presented (R55: what it stores is its own business; N14: a read may change a register). -/
structure Turn where
  before : List (Fin regCount × Byte)
  status : TransportStatus
  after  : List (Fin regCount × Byte)
  deriving DecidableEq, Repr, Inhabited

/-- The turn of the MOCK device: `OK`, and nothing changes but by a write (R58). -/
def Turn.mock : Turn := { before := [], status := .ok, after := [] }

/-! ## Free values (log entries 4, 5, 6): opaque, so that no proof can lean on any of them -/

/-- The environment's `k`-th undetermined answer: any status, any bytes (R57, U9). -/
opaque Config.freeTurn : Nat → Turn

/-- The payload of a response whose code is not `SUCCESS`: "holds no value" (R25, R91, U7). -/
opaque Config.freePayload : Nat → Field56

/-- The byte BCD_ENC answers for a decimal above 99: unspecified (R112, U1). -/
opaque Config.freeEncoding : Nat → Byte

end Sys2Proof
end

