-- ==== Sys2Proof/Syntax.lean ====
section
/-! DEFINITION. The 14 operations of the block (R84), one constructor a row of the opcode table, and their opcodes and
formats (R81, R84). -/

namespace Sys2Proof

/-- A command (R84). A byte operand is the 8 bits of its field (R83); `dp` is the destination-present bit (R85), `en`
the enable bit of ENABLE_32KHZ. -/
inductive Instr where
  /-- BCD_ENC d (R112) -/
  | bcdEnc (d : Byte)
  /-- BCD_DEC b (R113) -/
  | bcdDec (b : Byte)
  /-- READ_TIME (R120) -/
  | readTime (dp : Bool)
  /-- SET_TIME year, month, date, weekday, hour, minute, second (R121) -/
  | setTime (year month date weekday hour minute second : Byte)
  /-- GET_TEMP (R130) -/
  | getTemp (dp : Bool)
  /-- GET_STATUS (R140) -/
  | getStatus (dp : Bool)
  /-- CLEAR_STATUS mask (R141) -/
  | clearStatus (mask : Byte)
  /-- GET_CONTROL (R150) -/
  | getControl (dp : Bool)
  /-- UPDATE_CONTROL mask (R151) -/
  | updateControl (mask : Byte)
  /-- CLEAR_CONTROL mask (R152) -/
  | clearControl (mask : Byte)
  /-- ENABLE_32KHZ en (R160) -/
  | enable32khz (en : Bool)
  /-- SET_SQW_FREQ rs_bits (R170) -/
  | setSqwFreq (rsBits : Byte)
  /-- SET_AGING offset, the offset as its two's-complement byte (R180) -/
  | setAging (offset : Byte)
  /-- GET_AGING (R181) -/
  | getAging (dp : Bool)
  deriving DecidableEq, Repr

/-- The 14 listed opcodes (R84). -/
inductive Opcode where
  | bcdEnc | bcdDec | readTime | setTime | getTemp | getStatus | clearStatus | getControl | updateControl
  | clearControl | enable32khz | setSqwFreq | setAging | getAging
  deriving DecidableEq, Repr

/-- The four formats (R81): seven byte operands, one byte operand, the `dp` bit, the `en` bit. -/
inductive Format where
  | t | b | g | e
  deriving DecidableEq, Repr

/-- The opcodes in the order of the table of R84. -/
def Opcode.all : List Opcode :=
  [.bcdEnc, .bcdDec, .readTime, .setTime, .getTemp, .getStatus, .clearStatus, .getControl, .updateControl,
   .clearControl, .enable32khz, .setSqwFreq, .setAging, .getAging]

/-- The opcode of a command. -/
def Instr.opcode : Instr → Opcode
  | .bcdEnc _ => .bcdEnc
  | .bcdDec _ => .bcdDec
  | .readTime _ => .readTime
  | .setTime _ _ _ _ _ _ _ => .setTime
  | .getTemp _ => .getTemp
  | .getStatus _ => .getStatus
  | .clearStatus _ => .clearStatus
  | .getControl _ => .getControl
  | .updateControl _ => .updateControl
  | .clearControl _ => .clearControl
  | .enable32khz _ => .enable32khz
  | .setSqwFreq _ => .setSqwFreq
  | .setAging _ => .setAging
  | .getAging _ => .getAging

end Sys2Proof
end

