-- ==== Sys2Proof/WellFormed.lean ====
section
/-! DEFINITION. Which command words are legal (R84, R86, R87): the match and mask rows of the opcode table, and the check
of a command. -/

namespace Sys2Proof

/-- One row of the opcode table: "a word `w` selects the row when `w & mask = match`" (R84). -/
structure CommandRow where
  opcode : Opcode
  value  : Word64
  mask   : Word64
  deriving DecidableEq, Repr

/-- The mask of a format (R84): the opcode byte and the reserved bits. -/
def Format.mask : Format → Word64
  | .t => 0xFF00000000000000
  | .b => 0xFFFFFFFFFFFFFF00
  | .g => 0xFFFFFFFFFFFFFFFE
  | .e => 0xFFFFFFFFFFFFFFFE

/-- The 14 rows of spec/opcode_table.json (R84). -/
def commandRows : List CommandRow :=
  [⟨.bcdEnc, 0x1000000000000000, Format.b.mask⟩,
   ⟨.bcdDec, 0x1100000000000000, Format.b.mask⟩,
   ⟨.readTime, 0x2000000000000000, Format.g.mask⟩,
   ⟨.setTime, 0x2100000000000000, Format.t.mask⟩,
   ⟨.getTemp, 0x3000000000000000, Format.g.mask⟩,
   ⟨.getStatus, 0x4000000000000000, Format.g.mask⟩,
   ⟨.clearStatus, 0x4100000000000000, Format.b.mask⟩,
   ⟨.getControl, 0x5000000000000000, Format.g.mask⟩,
   ⟨.updateControl, 0x5100000000000000, Format.b.mask⟩,
   ⟨.clearControl, 0x5200000000000000, Format.b.mask⟩,
   ⟨.enable32khz, 0x6000000000000000, Format.e.mask⟩,
   ⟨.setSqwFreq, 0x7000000000000000, Format.b.mask⟩,
   ⟨.setAging, 0x8000000000000000, Format.b.mask⟩,
   ⟨.getAging, 0x8100000000000000, Format.g.mask⟩]

/-- The word selects the row (R84). -/
def CommandRow.selects (r : CommandRow) (w : Word64) : Bool := w &&& r.mask == r.value

/-- A legal command word matches a row; every other word is an illegal command (R86, R87). -/
def wellFormedWord (w : Word64) : Bool := commandRows.any fun r => r.selects w

/-- The check of a command. The types of its operands carry every bound of R82 and R83, and an out-of-range VALUE is no
encoding error (R88), so every command is well formed; what can be ill formed is a word (`wellFormedWord`) or a choice of
the parameters of R8 (`Masks.wf`). -/
def Instr.wellFormed : Instr → Bool
  | .bcdEnc _ => true
  | .bcdDec _ => true
  | .readTime _ => true
  | .setTime _ _ _ _ _ _ _ => true
  | .getTemp _ => true
  | .getStatus _ => true
  | .clearStatus _ => true
  | .getControl _ => true
  | .updateControl _ => true
  | .clearControl _ => true
  | .enable32khz _ => true
  | .setSqwFreq _ => true
  | .setAging _ => true
  | .getAging _ => true

end Sys2Proof
end

