-- ==== Sys2Proof/Decode.lean ====
section
/-! DEFINITION. Decoding, a total function on 64-bit words (R88), and encoding, from the field positions of R82. -/

namespace Sys2Proof

/-- Why a word is an illegal command. -/
inductive DecodeError where
  /-- `CW[63:56]` is none of the 14 opcodes (R87) -/
  | unknownOpcode (b : Byte)
  /-- a reserved bit of the opcode's format is 1 (R86) -/
  | reservedBitSet (op : Opcode)
  deriving DecidableEq, Repr

/-- The opcode byte (R84): `(k << 4) | j` for the `j`-th operation of subsection `4.k` of the source. -/
def Opcode.byte : Opcode → Byte
  | .bcdEnc => 0x10
  | .bcdDec => 0x11
  | .readTime => 0x20
  | .setTime => 0x21
  | .getTemp => 0x30
  | .getStatus => 0x40
  | .clearStatus => 0x41
  | .getControl => 0x50
  | .updateControl => 0x51
  | .clearControl => 0x52
  | .enable32khz => 0x60
  | .setSqwFreq => 0x70
  | .setAging => 0x80
  | .getAging => 0x81

/-- The format of an opcode (R84). -/
def Opcode.format : Opcode → Format
  | .bcdEnc => .b
  | .bcdDec => .b
  | .readTime => .g
  | .setTime => .t
  | .getTemp => .g
  | .getStatus => .g
  | .clearStatus => .b
  | .getControl => .g
  | .updateControl => .b
  | .clearControl => .b
  | .enable32khz => .e
  | .setSqwFreq => .b
  | .setAging => .b
  | .getAging => .g

/-- The listed opcode with this byte, if there is one (R84, R87). -/
def Opcode.ofByte (b : Byte) : Option Opcode := Opcode.all.find? fun op => op.byte == b

/-- The reserved bits of a format, `CW[55:8]` for B, `CW[55:1]` for G and E, none for T (R82). -/
def Format.reserved : Format → Word64
  | .t => 0
  | .b => 0x00FFFFFFFFFFFF00
  | .g => 0x00FFFFFFFFFFFFFE
  | .e => 0x00FFFFFFFFFFFFFE

/-- `CW[63:56]` (R80). -/
def opcodeByte (w : Word64) : Byte := w.extractLsb' 56 8

/-- The byte field whose low bit is bit `lo` of the word (R82). -/
def byteField (w : Word64) (lo : Nat) : Byte := w.extractLsb' lo 8

/-- `CW[0]`: `dp` of format G, `en` of format E (R82). -/
def bitField (w : Word64) : Bool := w.getLsbD 0

/-- The command of an opcode with the operand fields of the word (R82, R83). -/
def Opcode.command (op : Opcode) (w : Word64) : Instr :=
  match op with
  | .bcdEnc => .bcdEnc (byteField w 0)
  | .bcdDec => .bcdDec (byteField w 0)
  | .readTime => .readTime (bitField w)
  | .setTime =>
    .setTime (byteField w 48) (byteField w 40) (byteField w 32) (byteField w 24) (byteField w 16) (byteField w 8)
      (byteField w 0)
  | .getTemp => .getTemp (bitField w)
  | .getStatus => .getStatus (bitField w)
  | .clearStatus => .clearStatus (byteField w 0)
  | .getControl => .getControl (bitField w)
  | .updateControl => .updateControl (byteField w 0)
  | .clearControl => .clearControl (byteField w 0)
  | .enable32khz => .enable32khz (bitField w)
  | .setSqwFreq => .setSqwFreq (byteField w 0)
  | .setAging => .setAging (byteField w 0)
  | .getAging => .getAging (bitField w)

/-- Decoding, in the order of R88: the opcode, then the reserved bits of its format, then the fields. -/
def decode (w : Word64) : Except DecodeError Instr :=
  match Opcode.ofByte (opcodeByte w) with
  | none => .error (.unknownOpcode (opcodeByte w))
  | some op =>
    if w &&& op.format.reserved = 0 then .ok (op.command w) else .error (.reservedBitSet op)

/-- The operand field of format B: reserved zeros above the byte (R81). -/
def byteOperand (b : Byte) : Field56 := (0 : BitVec 48) ++ b

/-- The operand field of formats G and E: reserved zeros above the bit (R81). -/
def bitOperand (x : Bool) : Field56 := (0 : BitVec 55) ++ BitVec.ofBool x

/-- Seven bytes, most significant first: the operand field of format T (R81) and the payload of READ_TIME (R91). -/
def sevenBytes (year month date weekday hour minute second : Byte) : Field56 :=
  year ++ month ++ date ++ weekday ++ hour ++ minute ++ second

/-- The operand field of a command (R81, R82). -/
def Instr.operands : Instr → Field56
  | .bcdEnc d => byteOperand d
  | .bcdDec b => byteOperand b
  | .readTime dp => bitOperand dp
  | .setTime year month date weekday hour minute second => sevenBytes year month date weekday hour minute second
  | .getTemp dp => bitOperand dp
  | .getStatus dp => bitOperand dp
  | .clearStatus mask => byteOperand mask
  | .getControl dp => bitOperand dp
  | .updateControl mask => byteOperand mask
  | .clearControl mask => byteOperand mask
  | .enable32khz en => bitOperand en
  | .setSqwFreq rsBits => byteOperand rsBits
  | .setAging offset => byteOperand offset
  | .getAging dp => bitOperand dp

/-- The command word of a command: the opcode byte above the operand field (R80). -/
def encode (i : Instr) : Word64 := i.opcode.byte ++ i.operands

/-- The 64-bit command word of a table row's bits: bit 0 is the least significant, bits at `nbits` and above are 0. -/
def tableWord (nbits w : Nat) : Word64 := BitVec.ofNat 64 (w % 2 ^ nbits)

/-- What the decoder reads from a word of spec/opcode_table.json. -/
def decodeTableWord (nbits w : Nat) : Option Instr := (decode (tableWord nbits w)).toOption

end Sys2Proof
end

