-- ==== Sys2Proof/Machine/Memory.lean ====
section
/-! DEFINITION. The device register space (R50, R52): 19 byte registers as a list of cells in one canonical form. -/

namespace Sys2Proof.Machine

open Sys2Proof

/-- The device registers: cells of strictly rising address, none equal to what an unlisted address reads as. -/
abbrev Memory := List Host.Cell

/-- DESIGN CHOICE, log entry 3: what a register holds that nothing has written. The spec gives no value (R232, `DEV_INIT`). -/
def Memory.unlisted (_ : Nat) : Byte := 0

/-- `DEV[a]` (R14): the byte the device holds at register address `a`. -/
def Memory.read : Memory → Nat → Byte
  | [], a => Memory.unlisted a
  | c :: m, a => if c.1 = a then c.2 else Memory.read m a

/-- Puts a cell in front, unless it says what an unlisted address reads as anyway. -/
def Memory.cons (a : Nat) (b : Byte) (m : Memory) : Memory := if b = Memory.unlisted a then m else (a, b) :: m

/-- `DEV[a] <- b` (R55), keeping the canonical form. -/
def Memory.write : Memory → Nat → Byte → Memory
  | [], a, b => Memory.cons a b []
  | c :: m, a, b =>
    if a < c.1 then Memory.cons a b (c :: m)
    else if a = c.1 then Memory.cons a b m
    else c :: Memory.write m a b

/-- The bytes of `n` consecutive registers from `a`, in ascending address order (R54, R56, R60). -/
def Memory.readRun (m : Memory) (a : Nat) : Nat → List Byte
  | 0 => []
  | n + 1 => m.read a :: Memory.readRun m (a + 1) n

/-- Stores bytes to consecutive registers from `a`, in ascending address order (R55, R56, R60). -/
def Memory.writeRun (m : Memory) (a : Nat) : List Byte → Memory
  | [] => m
  | b :: bs => Memory.writeRun (m.write a b) (a + 1) bs

/-- Registers the device changes on its own (R57). -/
def Memory.own (m : Memory) : List (Fin regCount × Byte) → Memory
  | [] => m
  | c :: cs => Memory.own (m.write c.1.val c.2) cs

/-- The canonical form: rising addresses, all of them registers of the map (R50), no cell an unlisted address equals. -/
def Memory.wf (m : Memory) : Bool :=
  decide (m.Pairwise fun c d => c.1 < d.1)
    && m.all fun c => decide (c.1 < regCount) && c.2 != Memory.unlisted c.1

end Sys2Proof.Machine
end

