-- ==== Sys2Proof/Machine/State.lean ====
section
/-! DEFINITION. All the state there is (R20 to R36): what the block holds while a command runs (R23), what the host hands
it and gets back (R20, R24, R25), the 19 device registers (R28 to R34), what the environment is going to do (R57), the
transactions issued (R64, R250), and the machine's parameters (R8). Plain data throughout. -/

namespace Sys2Proof.Machine

open Sys2Proof

/-- `PHASE` (R23): `IDLE`, or the index of the next transaction of the running command. -/
inductive Phase where
  | idle
  | running (next : Nat)
  deriving DecidableEq, Repr

/-- The closed set of result codes (R27, R200). -/
inductive ResultCode where
  /-- success -/
  | success
  /-- generic failure -/
  | error
  /-- communication timeout -/
  | timeout
  /-- device-not-responding; no command produces it (R205) -/
  | notReady
  /-- invalid-parameter -/
  | invalidParam
  /-- bus-busy -/
  | busy
  deriving DecidableEq, Repr

/-- The result of one command (R25): the code and the payload `RW[55:0]`. `Response.word` is its word `RW` (R91). -/
structure Response where
  code    : ResultCode
  payload : Field56
  deriving DecidableEq, Repr

/-- One transaction as an event (R64, R250): a read with the bytes it returned (none unless `OK`), or a write with the
buffer and length of the transport call (R55). -/
inductive Transaction where
  | read (addr len : Nat) (status : TransportStatus) (bytes : List Byte)
  | write (buffer : List Byte) (length : Nat) (status : TransportStatus)
  deriving DecidableEq, Repr

/-- What the host does next (R20, R80, R230, R231): it presents a command word, where `resetAfter = some k` says that the
block is reset when `k` transactions of that command have returned and the response has not; or it resets the idle block. -/
inductive HostInput where
  | command (cw : Word64) (resetAfter : Option Nat)
  | reset
  deriving DecidableEq, Repr

/-- What the environment does when the script of its turns is used up: the MOCK device (R58), or anything (R57, U9). -/
inductive EnvRest where
  | mock
  | free
  deriving DecidableEq, Repr

/-- The state. -/
structure State where
  /-- `PHASE` (R23) -/
  phase    : Phase
  /-- `CW`, the command word latched when the command was accepted (R23) -/
  cw       : Word64
  /-- `LATCH`, the byte read by a read-modify-write (R23) -/
  latch    : Byte
  /-- `RBUF[0..6]`, the bytes of a block read (R23) -/
  rbuf     : Vector Byte 7
  /-- `WBUF[0..7]`, the register address and the values of a write (R23) -/
  wbuf     : Vector Byte 8
  /-- the response to the last command accepted, none until it is given (R20, R25) -/
  response : Option Response
  /-- the running command's reset, if one is to arrive: after how many of its transactions (R231) -/
  resetDue : Option Nat
  /-- what the host is going to do, in order (R20) -/
  host     : List HostInput
  /-- the device registers 0x00 to 0x12 (R52) -/
  mem      : Memory
  /-- the environment's next turns, in order (R57) -/
  script   : List Turn
  /-- what the environment does after them (R57, R58) -/
  rest     : EnvRest
  /-- free values drawn so far: the model's own counter -/
  draws    : Nat
  /-- the transactions issued so far, oldest first (R64) -/
  bus      : List Transaction
  /-- the parameters of R8: no step changes them -/
  masks    : Masks
  deriving DecidableEq, Repr

/-- Why a step stops with a fault. -/
inductive Fault where
  /-- Raised by `step` when `PHASE` is not `IDLE`: "no step exists for it (`stuck` for the second command)" (U13, R20,
  R215). A step runs a command to its end, so no run from an idle state meets it. Safe: nothing is claimed of it. -/
  | commandInProgress
  deriving DecidableEq, Repr

/-- Why a step is refused. -/
inductive Refusal where
  /-- Raised by an arm of `exec` for an instruction without a meaning; no arm does. Safe. -/
  | notModelled (mnemonic : String)
  deriving DecidableEq, Repr

/-- The block after reset, beside a device that holds `dev` (R230, R232: `DEV_INIT` is an argument): idle, no result, no
transaction; the host presents nothing and the environment is free. The transient registers are zero (DESIGN CHOICE, log
entry 1: the spec leaves them unspecified), the masks are the defaults (PRESUMED, log entry 2). -/
def State.resetWith (dev : Memory) : State where
  phase := .idle
  cw := 0
  latch := 0
  rbuf := Vector.replicate 7 0
  wbuf := Vector.replicate 8 0
  response := none
  resetDue := none
  host := []
  mem := dev
  script := []
  rest := .free
  draws := 0
  bus := []
  masks := Config.defaultMasks

/-- The machine right after reset, nothing listed in the device (log entry 3). -/
def State.reset : State := State.resetWith []

end Sys2Proof.Machine
end

