-- ==== Sys2Proof/Machine/Flags.lean ====
section
/-! DEFINITION. Result codes and their numbers (R200, R201), how a transport failure becomes one (R203, R204), the response
word (R91), and the fields of CONTROL and STATUS (R30 to R32) with the bit edits of the read-modify-write engine. -/

namespace Sys2Proof.Machine

open Sys2Proof

/-! ## Codes -/

/-- The number of a result code in `RW[58:56]` (R200). -/
def ResultCode.number : ResultCode → BitVec 3
  | .success => 0
  | .error => 1
  | .timeout => 2
  | .notReady => 3
  | .invalidParam => 4
  | .busy => 5

/-- The number of a transport status (R201). -/
def statusNumber : TransportStatus → Nat
  | .ok => 0
  | .failed .error => 1
  | .failed .timeout => 2
  | .failed .busy => 3

/-- `propagate(ts)`: the result code of the same name (R203). -/
def propagate : TransportFailure → ResultCode
  | .error => .error
  | .timeout => .timeout
  | .busy => .busy

/-- GET_TEMP does not propagate: any failure is `ERROR` (R204). -/
def collapse : TransportFailure → ResultCode
  | .error => .error
  | .timeout => .error
  | .busy => .error

/-- The response word: `RW[63:59] = 0`, `RW[58:56]` the code, `RW[55:0]` the payload (R91). -/
def Response.word (r : Response) : Word64 := (0 : BitVec 5) ++ r.code.number ++ r.payload

/-! ## Bit edits of a register byte -/

/-- Sets the bits of `mask`, preserves all others (R151). -/
def setBits (mask b : Byte) : Byte := b ||| mask

/-- Clears the bits of `mask`, preserves all others (R141, R152). -/
def clearBits (mask b : Byte) : Byte := b &&& ~~~mask

/-- Sets or clears `EN32K` (R160). -/
def editEn32k (m : Masks) (en : Bool) (b : Byte) : Byte := if en then setBits m.en32k b else clearBits m.en32k b

/-- The write-back of SET_SQW_FREQ: oscillator on, square-wave mode, the old rate dropped, the new rate masked in (R170). -/
def editRate (m : Masks) (rsBits b : Byte) : Byte :=
  clearBits m.rsMask (clearBits m.intcn (clearBits m.eosc b)) ||| (rsBits &&& m.rsMask)

/-- Whether a one-bit field of a register is set (R30, R32). -/
def fieldSet (mask b : Byte) : Bool := b &&& mask != 0

/-! ## The square-wave rate (R31) -/

/-- The four square-wave rates. -/
inductive SqwRate where
  | hz1
  | khz1024
  | khz4096
  | khz8192
  deriving DecidableEq, Repr

/-- The frequency in hertz: 1 Hz, 1.024 kHz, 4.096 kHz, 8.192 kHz (R31). -/
def SqwRate.hertz : SqwRate → Nat
  | .hz1 => 1
  | .khz1024 => 1024
  | .khz4096 => 4096
  | .khz8192 => 8192

/-- `rs = (CONTROL & RS_MASK) >> RS_SHIFT` (R31). -/
def rateField (m : Masks) (control : Byte) : Nat := ((control &&& m.rsMask) >>> m.rsShift).toNat

/-- The rate a CONTROL byte selects: `rs` 0, 1, 2, 3 (R31). -/
def rateSelected (m : Masks) (control : Byte) : SqwRate :=
  match rateField m control with
  | 0 => .hz1
  | 1 => .khz1024
  | 2 => .khz4096
  | _ => .khz8192

end Sys2Proof.Machine
end

