-- ==== Sys2Proof/Machine/Operands.lean ====
section
/-! DEFINITION. The block's data paths: the BCD codec (R110, R111), the temperature decoder (R131), the Time record with
its ranges and masks (R26, R28, R121, R124), the five accesses of R71, and the payloads of R91. -/

namespace Sys2Proof.Machine

open Sys2Proof

/-! ## BCD codec -/

/-- `bcd_enc(d) = ((d div 10) << 4) | (d mod 10)` for `d <= 99` (R110); above 99 the caller must not read it. -/
def bcdEnc (d : Byte) : Byte := BitVec.ofNat 8 (d.toNat / 10) <<< 4 ||| BitVec.ofNat 8 (d.toNat % 10)

/-- `bcd_dec(b) = b[7:4] * 10 + b[3:0]`, total, at most 165 (R111). -/
def bcdDec (b : Byte) : Byte := BitVec.ofNat 8 ((b.extractLsb' 4 4).toNat * 10 + (b.extractLsb' 0 4).toNat)

/-! ## Temperature -/

/-- `signed8(b)` (R13). -/
def signed8 (b : Byte) : Int := if b.toNat < 128 then b.toNat else (b.toNat : Int) - 256

/-- `temp_dec(msb, lsb) = 4 * signed8(msb) + lsb[7:6]`, in quarter units (R131). -/
def tempDec (msb lsb : Byte) : Int := 4 * signed8 msb + (lsb.extractLsb' 6 2).toNat

/-! ## The Time record (R26) -/

/-- "seven unsigned 8-bit fields", "decoded decimal values" (R26). -/
structure TimeRecord where
  year    : Byte
  month   : Byte
  date    : Byte
  weekday : Byte
  hours   : Byte
  minutes : Byte
  seconds : Byte
  deriving DecidableEq, Repr

/-- The seven range conditions of SET_TIME (R26, R121). -/
def TimeRecord.valid (t : TimeRecord) : Bool :=
  decide (t.seconds.toNat ≤ 59) && decide (t.minutes.toNat ≤ 59) && decide (t.hours.toNat ≤ 23)
    && decide (1 ≤ t.weekday.toNat) && decide (t.weekday.toNat ≤ 7)
    && decide (1 ≤ t.date.toNat) && decide (t.date.toNat ≤ 31)
    && decide (1 ≤ t.month.toNat) && decide (t.month.toNat ≤ 12)
    && decide (t.year.toNat ≤ 99)

/-- `v[i]` of the bytes of a transaction; a successful read of `n` registers has them for all `i < n` (R54). -/
def byteAt (v : List Byte) (i : Nat) : Byte := v.getD i 0

/-- What READ_TIME makes of the seven registers: reserved bits masked off, the rest decoded; YEAR whole (R28, R120). -/
def TimeRecord.ofRegisters (v : List Byte) : TimeRecord where
  seconds := bcdDec (byteAt v 0 &&& 0x7F)
  minutes := bcdDec (byteAt v 1 &&& 0x7F)
  hours := bcdDec (byteAt v 2 &&& 0x3F)
  weekday := bcdDec (byteAt v 3 &&& 0x07)
  date := bcdDec (byteAt v 4 &&& 0x3F)
  month := bcdDec (byteAt v 5 &&& 0x7F)
  year := bcdDec (byteAt v 6)

/-- What SET_TIME writes to the seven registers, seconds first; MONTH and YEAR unmasked (R28, R121, R124). -/
def TimeRecord.registers (t : TimeRecord) : List Byte :=
  [bcdEnc t.seconds &&& 0x7F, bcdEnc t.minutes &&& 0x7F, bcdEnc t.hours &&& 0x3F, bcdEnc t.weekday &&& 0x07,
   bcdEnc t.date &&& 0x3F, bcdEnc t.month, bcdEnc t.year]

/-! ## Payloads (R91) -/

/-- READ_TIME: the layout of format T. -/
def TimeRecord.payload (t : TimeRecord) : Field56 :=
  sevenBytes t.year t.month t.date t.weekday t.hours t.minutes t.seconds

/-- A result byte in `RW[7:0]`, zeros above it. -/
def bytePayload (b : Byte) : Field56 := (0 : BitVec 48) ++ b

/-- GET_TEMP: `RW[15:0] = sext_16(T4)`, zeros above. -/
def tempPayload (t4 : Int) : Field56 := (0 : BitVec 40) ++ BitVec.ofInt 16 t4

/-! ## The addressing of a transaction (R35, R71) -/

/-- The five runs of registers the block ever addresses: the address is a constant of the operation (R71). -/
inductive Access where
  /-- SECONDS to YEAR, 0x00..0x06 -/
  | time
  /-- CONTROL, 0x0E -/
  | control
  /-- STATUS, 0x0F -/
  | status
  /-- AGING, 0x10 -/
  | aging
  /-- TEMP_MSB and TEMP_LSB, 0x11..0x12 -/
  | temp
  deriving DecidableEq, Repr

/-- The register address of an access (R52). -/
def Access.addr : Access → Nat
  | .time => 0x00
  | .control => 0x0E
  | .status => 0x0F
  | .aging => 0x10
  | .temp => 0x11

/-- How many registers an access moves (R56, R62). -/
def Access.len : Access → Nat
  | .time => 7
  | .control => 1
  | .status => 1
  | .aging => 1
  | .temp => 2

end Sys2Proof.Machine
end

