-- ==== Sys2Proof/Machine/Ops.lean ====
section
/-! DEFINITION. The shared operations: the environment's turns, `MemRead` and `MemWrite` (R54, R55), `raise` and `return`
(R14, R207), reset (R230, R231), accepting a command (R23, R80), and the read-modify-write engine (R1). -/

namespace Sys2Proof.Machine

open Sys2Proof

/-! ## The environment (R57) -/

/-- What the environment does at the `k`-th of the coming transactions: the script first, then the MOCK device or a free
turn (log entry 4). -/
def State.turnAt (s : State) (k : Nat) : Turn :=
  match s.script[k]? with
  | some t => t
  | none =>
    match s.rest with
    | .mock => Turn.mock
    | .free => Config.freeTurn (s.draws + (k - s.script.length))

/-- The environment has taken its next turn. A turn beyond the script counts as a draw. -/
def State.takeTurn (s : State) : State :=
  { s with script := s.script.tail, draws := if s.script.isEmpty then s.draws + 1 else s.draws }

/-! ## Reset, raise, return -/

/-- Reset of the block (R230, R231): idle, the running command abandoned without a response and without rollback; the
device is not touched. The transient registers take the values of `State.reset` (log entry 1). -/
def State.blockReset (s : State) : State :=
  { s with
    phase := .idle
    cw := 0
    latch := 0
    rbuf := Vector.replicate 7 0
    wbuf := Vector.replicate 8 0
    response := none
    resetDue := none }

/-- How many transactions of the running command have returned. -/
def State.issued (s : State) : Nat :=
  match s.phase with
  | .idle => 0
  | .running k => k

/-- The reset of the running command arrives at this point (R231). -/
def State.resetNow (s : State) : Bool := s.resetDue == some s.issued

/-- The response word is given and `PHASE` returns to `IDLE` (R91, R207). -/
def State.answer (s : State) (code : ResultCode) (payload : Field56) : State :=
  { s with phase := .idle, resetDue := none, response := some { code := code, payload := payload } }

/-- The command ends with a code and a payload; or the reset arrives first and there is no response (R231). -/
def State.finish (s : State) (code : ResultCode) (payload : Field56) : State :=
  if s.resetNow then s.blockReset else s.answer code payload

/-- A free value is drawn. -/
def State.draw (s : State) : State := { s with draws := s.draws + 1 }

/-- `return <payload>` (R14). -/
def State.respond (s : State) (payload : Field56) : State := s.finish .success payload

/-- `raise <Code>` (R14, R207), the block's one exception: the command ends with that code, nothing is saved or undone, and
the payload is a free value (R25, log entry 5). There is no return from it: the next command runs as usual (R210). -/
def State.raise (s : State) (code : ResultCode) : State :=
  s.draw.finish code (Config.freePayload s.draws)

/-! ## Transactions -/

/-- How a transaction ended: with bytes (`OK`), with another status, or not at all because the reset came first. -/
inductive TxResult where
  | ok (bytes : List Byte) (s : State)
  | failed (f : TransportFailure) (s : State)
  | abandoned (s : State)
  deriving DecidableEq, Repr

/-- A transaction has returned: it is recorded, the device is left as given, and `PHASE` moves on. -/
def State.completed (s : State) (x : Transaction) (dev : Memory) : State :=
  { s.takeTurn with phase := .running (s.issued + 1), mem := dev, bus := s.bus ++ [x] }

/-- `(ts, v) <- MemRead(addr, n)` (R54): the bytes are what the device holds after what it changed on its own. -/
def memRead (r : Access) (s : State) : TxResult :=
  if s.resetNow then .abandoned s.blockReset
  else
    let turn := s.turnAt 0
    let dev := s.mem.own turn.before
    match turn.status with
    | .ok =>
      let v := dev.readRun r.addr r.len
      .ok v (s.completed (.read r.addr r.len .ok v) (dev.own turn.after))
    | .failed f => .failed f (s.completed (.read r.addr r.len (.failed f) []) dev)

/-- The first entries of a buffer replaced by the given bytes. -/
def overlay {n : Nat} (v : List Byte) (old : Vector Byte n) : Vector Byte n :=
  Vector.ofFn fun i => v.getD i.val old[i]

/-- `WBUF[0..] <- v` (R23). -/
def State.setWbuf (s : State) (v : List Byte) : State := { s with wbuf := overlay v s.wbuf }

/-- `ts <- MemWrite(addr, n, v)` (R55): the call `write(WBUF, n + 1)` with the address in `WBUF[0]`. Only an `OK` write
changes the device (R63), all its registers in one step (R62). -/
def memWrite (r : Access) (v : List Byte) (s : State) : TxResult :=
  if s.resetNow then .abandoned s.blockReset
  else
    let buffer := BitVec.ofNat 8 r.addr :: v
    let s := s.setWbuf buffer
    let turn := s.turnAt 0
    let dev := s.mem.own turn.before
    match turn.status with
    | .ok => .ok [] (s.completed (.write buffer buffer.length .ok) ((dev.writeRun r.addr v).own turn.after))
    | .failed f => .failed f (s.completed (.write buffer buffer.length (.failed f)) dev)

/-- The command goes on with the bytes of an `OK` transaction; a failed one raises the code its status maps to, and no
further transaction is issued (R207). -/
def TxResult.andThen (x : TxResult) (code : TransportFailure → ResultCode) (k : List Byte → State → State) : State :=
  match x with
  | .ok v s => k v s
  | .failed f s => s.raise (code f)
  | .abandoned s => s

/-- `LATCH <- b` (R23). -/
def State.setLatch (s : State) (b : Byte) : State := { s with latch := b }

/-- `RBUF[0..] <- v` (R23). -/
def State.setRbuf (s : State) (v : List Byte) : State := { s with rbuf := overlay v s.rbuf }

/-! ## Shapes of commands -/

/-- Issues a one-register read and goes on with its byte. -/
def readByte (r : Access) (s : State) (k : Byte → State → State) : State :=
  (memRead r s).andThen propagate fun v s => k (byteAt v 0) s

/-- Writes values and goes on. -/
def writeBytes (r : Access) (v : List Byte) (s : State) (k : State → State) : State :=
  (memWrite r v s).andThen propagate fun _ s => k s

/-- A destination must be present before any bus activity (R85, R209). -/
def withDestination (dp : Bool) (s : State) (k : State → State) : State := if dp then k s else s.raise .invalidParam

/-- A passthrough read of one register: GET_STATUS, GET_CONTROL, GET_AGING. -/
def getByte (r : Access) (dp : Bool) (s : State) : State :=
  withDestination dp s fun s => readByte r s fun b s => s.respond (bytePayload b)

/-- The read-modify-write engine: read, alter the byte in `LATCH`, write it back, and end (R68, R240). -/
def readModifyWrite (r : Access) (edit : Byte → Byte) (s : State) : State :=
  readByte r s fun b s =>
    let s := s.setLatch b
    writeBytes r [edit s.latch] s fun s => s.respond 0

/-! ## Between commands -/

/-- The block accepts a command word (R23, R80): it is latched, no transaction is out yet, no response given yet. -/
def State.accept (s : State) (cw : Word64) (resetAfter : Option Nat) : State :=
  { s with cw := cw, phase := .running 0, response := none, resetDue := resetAfter }

/-- An illegal command completes with `INVALID_PARAM` and issues no transaction (R87). -/
def illegalCommand (s : State) : State := s.raise .invalidParam

/-- The host's first input is used up. -/
def State.popHost (s : State) : State := { s with host := s.host.tail }

/-- The host puts a command word before its other inputs, at an idle block. -/
def State.present (s : State) (cw : Word64) : State := { s with phase := .idle, host := .command cw none :: s.host }

end Sys2Proof.Machine
end

