-- ==== Sys2Proof/Machine/Aging.lean ====
section
/-! DEFINITION. The aging register accessors (spec file 47). -/

namespace Sys2Proof.Machine

open Sys2Proof

/-- SET_AGING (R180): one write of the byte as given. -/
def execSetAging (offset : Byte) (s : State) : Host.Outcome State Fault Refusal :=
  .next (writeBytes .aging [offset] s fun s => s.respond 0)

/-- GET_AGING (R181): the raw byte, to be read as two's complement. -/
def execGetAging (dp : Bool) (s : State) : Host.Outcome State Fault Refusal := .next (getByte .aging dp s)

end Sys2Proof.Machine
end

