-- ==== Sys2Proof/Machine/Bcd.lean ====
section
/-! DEFINITION. The BCD codec commands (spec file 40). -/

namespace Sys2Proof.Machine

open Sys2Proof

/-- BCD_ENC (R112): the encoding up to 99, a free byte above (U1, log entry 6); always `SUCCESS`, no transaction. -/
def execBcdEnc (d : Byte) (s : State) : Host.Outcome State Fault Refusal :=
  .next (
    if d.toNat ≤ 99 then s.respond (bytePayload (Machine.bcdEnc d))
    else s.draw.respond (bytePayload (Config.freeEncoding s.draws)))

/-- BCD_DEC (R113): every byte is accepted, no mask is applied; always `SUCCESS`, no transaction. -/
def execBcdDec (b : Byte) (s : State) : Host.Outcome State Fault Refusal :=
  .next (s.respond (bytePayload (Machine.bcdDec b)))

end Sys2Proof.Machine
end

