-- ==== Sys2Proof/Machine/Control.lean ====
section
/-! DEFINITION. The CONTROL register accessors (spec file 44). -/

namespace Sys2Proof.Machine

open Sys2Proof

/-- GET_CONTROL (R150): the raw byte. -/
def execGetControl (dp : Bool) (s : State) : Host.Outcome State Fault Refusal := .next (getByte .control dp s)

/-- UPDATE_CONTROL (R151): sets the bits of the mask. -/
def execUpdateControl (mask : Byte) (s : State) : Host.Outcome State Fault Refusal :=
  .next (readModifyWrite .control (setBits mask) s)

/-- CLEAR_CONTROL (R152): clears the bits of the mask. -/
def execClearControl (mask : Byte) (s : State) : Host.Outcome State Fault Refusal :=
  .next (readModifyWrite .control (clearBits mask) s)

end Sys2Proof.Machine
end

