-- ==== Sys2Proof/Machine/Out32k.lean ====
section
/-! DEFINITION. The 32 kHz output control (spec file 45). -/

namespace Sys2Proof.Machine

open Sys2Proof

/-- Steps 1 and 2 of ENABLE_32KHZ with `en = 1` (R160): CONTROL is read, and written back only if `EOSC` was set. -/
def oscillatorOn (s : State) (k : State → State) : State :=
  readByte .control s fun b s =>
    let s := s.setLatch b
    if fieldSet s.masks.eosc s.latch then writeBytes .control [clearBits s.masks.eosc s.latch] s k else k s

/-- Steps 3 and 4 (R160): STATUS is read and written back, always. -/
def switchOutput (en : Bool) (s : State) : State := readModifyWrite .status (editEn32k s.masks en) s

/-- ENABLE_32KHZ (R160, R161): enabling turns the oscillator on first, disabling does not touch CONTROL. -/
def execEnable32khz (en : Bool) (s : State) : Host.Outcome State Fault Refusal :=
  .next (if en then oscillatorOn s fun s => switchOutput true s else switchOutput false s)

end Sys2Proof.Machine
end

