-- ==== Sys2Proof/Machine/Sqw.lean ====
section
/-! DEFINITION. The square-wave frequency selector (spec file 46). -/

namespace Sys2Proof.Machine

open Sys2Proof

/-- SET_SQW_FREQ (R170): one read and one unconditional write of CONTROL. -/
def execSetSqwFreq (rsBits : Byte) (s : State) : Host.Outcome State Fault Refusal :=
  .next (readModifyWrite .control (editRate s.masks rsBits) s)

end Sys2Proof.Machine
end

