-- ==== Sys2Proof/Machine/Status.lean ====
section
/-! DEFINITION. The STATUS register accessors (spec file 43). -/

namespace Sys2Proof.Machine

open Sys2Proof

/-- GET_STATUS (R140): the raw byte. -/
def execGetStatus (dp : Bool) (s : State) : Host.Outcome State Fault Refusal := .next (getByte .status dp s)

/-- CLEAR_STATUS (R141): `status &= ~mask`, read then write. -/
def execClearStatus (mask : Byte) (s : State) : Host.Outcome State Fault Refusal :=
  .next (readModifyWrite .status (clearBits mask) s)

end Sys2Proof.Machine
end

