-- ==== Sys2Proof/Machine/Temperature.lean ====
section
/-! DEFINITION. The temperature reader (spec file 42). -/

namespace Sys2Proof.Machine

open Sys2Proof

/-- GET_TEMP (R130): one 2-byte read, TEMP_MSB first; every transport failure is `ERROR` (R204). -/
def execGetTemp (dp : Bool) (s : State) : Host.Outcome State Fault Refusal :=
  .next (
    withDestination dp s fun s =>
      (memRead .temp s).andThen collapse fun v s =>
        (s.setRbuf v).respond (tempPayload (tempDec (byteAt v 0) (byteAt v 1))))

end Sys2Proof.Machine
end

