-- ==== Sys2Proof/Machine/Time.lean ====
section
/-! DEFINITION. The time accessors (spec file 41). -/

namespace Sys2Proof.Machine

open Sys2Proof

/-- READ_TIME (R120): one 7-byte read, the reserved bits masked off, the fields decoded. -/
def execReadTime (dp : Bool) (s : State) : Host.Outcome State Fault Refusal :=
  .next (
    withDestination dp s fun s =>
      (memRead .time s).andThen propagate fun v s =>
        (s.setRbuf v).respond (TimeRecord.ofRegisters v).payload)

/-- SET_TIME (R121): all seven ranges are checked before anything else; then one 7-byte write. -/
def execSetTime (year month date weekday hour minute second : Byte) (s : State) : Host.Outcome State Fault Refusal :=
  let t : TimeRecord :=
    { year := year, month := month, date := date, weekday := weekday, hours := hour, minutes := minute,
      seconds := second }
  .next (
    if t.valid then writeBytes .time t.registers s fun s => s.respond 0
    else s.raise .invalidParam)

end Sys2Proof.Machine
end

