-- ==== Sys2Proof/Machine/Dispatch.lean ====
section
/-! DEFINITION. One arm per command (R84). -/

namespace Sys2Proof.Machine

open Sys2Proof

def exec (i : Instr) (s : State) : Host.Outcome State Fault Refusal :=
  match i with
  | .bcdEnc d => Sys2Proof.Machine.execBcdEnc d s
  | .bcdDec b => Sys2Proof.Machine.execBcdDec b s
  | .readTime dp => Sys2Proof.Machine.execReadTime dp s
  | .setTime year month date weekday hour minute second => Sys2Proof.Machine.execSetTime year month date weekday hour minute second s
  | .getTemp dp => Sys2Proof.Machine.execGetTemp dp s
  | .getStatus dp => Sys2Proof.Machine.execGetStatus dp s
  | .clearStatus mask => Sys2Proof.Machine.execClearStatus mask s
  | .getControl dp => Sys2Proof.Machine.execGetControl dp s
  | .updateControl mask => Sys2Proof.Machine.execUpdateControl mask s
  | .clearControl mask => Sys2Proof.Machine.execClearControl mask s
  | .enable32khz en => Sys2Proof.Machine.execEnable32khz en s
  | .setSqwFreq rsBits => Sys2Proof.Machine.execSetSqwFreq rsBits s
  | .setAging offset => Sys2Proof.Machine.execSetAging offset s
  | .getAging dp => Sys2Proof.Machine.execGetAging dp s

end Sys2Proof.Machine
end

