-- ==== Sys2Proof/Machine/Step.lean ====
section
/-! DEFINITION. One step: the idle block takes the host's next input (R20, R22). There is no fetch and no program counter:
a command is handed to the block whole, and a step runs it to its end, transaction by transaction. -/

namespace Sys2Proof.Machine

open Sys2Proof

/-- A word just accepted is decoded (R88) and run; an illegal one completes at once (R87). -/
def runWord (cw : Word64) (s : State) : Host.Outcome State Fault Refusal :=
  match decode cw with
  | .ok i => exec i s
  | .error _ => .next (illegalCommand s)

/-- One step. With no input the block waits for a command (R230); while one runs there is no step for another (U13). -/
def step (s : State) : Host.Outcome State Fault Refusal :=
  match s.phase with
  | .running _ => .fault .commandInProgress
  | .idle =>
    match s.host with
    | [] => .next s
    | .reset :: _ => .next s.popHost.blockReset
    | .command cw resetAfter :: _ => runWord cw (s.popHost.accept cw resetAfter)

/-- The state in which the host presents the word of an opcode-table row next (log entry 7). -/
def State.withFetchWord (s : State) (nbits w : Nat) : State := s.present (tableWord nbits w)

end Sys2Proof.Machine
end

