-- ==== Sys2Proof/Machine/Text.lean ====
section
/-! DEFINITION. The textual syntax (R90): mnemonics, the source's own spellings, and the reading of an operand list. -/

namespace Sys2Proof.Machine

open Sys2Proof

/-- The mnemonic (R84). -/
def mnemonic : Opcode → String
  | .bcdEnc => "BCD_ENC"
  | .bcdDec => "BCD_DEC"
  | .readTime => "READ_TIME"
  | .setTime => "SET_TIME"
  | .getTemp => "GET_TEMP"
  | .getStatus => "GET_STATUS"
  | .clearStatus => "CLEAR_STATUS"
  | .getControl => "GET_CONTROL"
  | .updateControl => "UPDATE_CONTROL"
  | .clearControl => "CLEAR_CONTROL"
  | .enable32khz => "ENABLE_32KHZ"
  | .setSqwFreq => "SET_SQW_FREQ"
  | .setAging => "SET_AGING"
  | .getAging => "GET_AGING"

/-- The source's own spelling of the operation, which names it as well (R90). -/
def sourceName : Opcode → String
  | .bcdEnc => "encode"
  | .bcdDec => "decode"
  | .readTime => "ReadTime"
  | .setTime => "SetTime"
  | .getTemp => "GetTemperature"
  | .getStatus => "GetStatus"
  | .clearStatus => "ClearStatus"
  | .getControl => "GetControl"
  | .updateControl => "UpdateControl"
  | .clearControl => "ClearControl"
  | .enable32khz => "Enable32KHz"
  | .setSqwFreq => "SetSQWFreq"
  | .setAging => "SetAging"
  | .getAging => "GetAging"

/-- The operation a name stands for: the source's own spellings "are aliases" of the mnemonics (R90). -/
def operationNamed (name : String) : Option Opcode :=
  Opcode.all.find? fun op => name == mnemonic op || name == sourceName op

/-- One operand: a number, decimal or hexadecimal, or the keyword `nodst` (R90). -/
inductive TextOperand where
  | number (n : Int)
  | nodst
  deriving DecidableEq, Repr

/-- A command as text: the operation and its operands in the order of the source's signature (R90). -/
structure TextLine where
  op       : Opcode
  operands : List TextOperand
  deriving DecidableEq, Repr

/-- A byte operand, 0 to 255. -/
def textByte (n : Int) : Option Byte := if 0 ≤ n ∧ n ≤ 255 then some (BitVec.ofInt 8 n) else none

/-- `offset`: "a signed decimal -128 to 127 or … a byte" (R90). -/
def textOffset (n : Int) : Option Byte := if -128 ≤ n ∧ n ≤ 255 then some (BitVec.ofInt 8 n) else none

/-- `en`: 0 or 1. -/
def textBit (n : Int) : Option Bool := if n = 0 then some false else if n = 1 then some true else none

/-- A format-G mnemonic alone has `dp = 1`, with `nodst` it has `dp = 0` (R90). -/
def textDestination : List TextOperand → Option Bool
  | [] => some true
  | [.nodst] => some false
  | _ => none

/-- The one operand of formats B and E. -/
def textOne {α : Type} (f : Int → Option α) : List TextOperand → Option α
  | [.number n] => f n
  | _ => none

/-- The seven operands of SET_TIME, year first (R90). -/
def textSeven : List TextOperand → Option Instr
  | [.number y, .number mo, .number d, .number wd, .number h, .number mi, .number s] => do
    return .setTime (← textByte y) (← textByte mo) (← textByte d) (← textByte wd) (← textByte h) (← textByte mi)
      (← textByte s)
  | _ => none

/-- The command a text line stands for (R90). -/
def assemble (l : TextLine) : Option Instr :=
  match l.op with
  | .bcdEnc => (textOne textByte l.operands).map .bcdEnc
  | .bcdDec => (textOne textByte l.operands).map .bcdDec
  | .readTime => (textDestination l.operands).map .readTime
  | .setTime => textSeven l.operands
  | .getTemp => (textDestination l.operands).map .getTemp
  | .getStatus => (textDestination l.operands).map .getStatus
  | .clearStatus => (textOne textByte l.operands).map .clearStatus
  | .getControl => (textDestination l.operands).map .getControl
  | .updateControl => (textOne textByte l.operands).map .updateControl
  | .clearControl => (textOne textByte l.operands).map .clearControl
  | .enable32khz => (textOne textBit l.operands).map .enable32khz
  | .setSqwFreq => (textOne textByte l.operands).map .setSqwFreq
  | .setAging => (textOne textOffset l.operands).map .setAging
  | .getAging => (textDestination l.operands).map .getAging

/-- The operand list of a `dp` bit. -/
def destinationText (dp : Bool) : List TextOperand := if dp then [] else [.nodst]

/-- An unsigned byte as a number. -/
def byteText (b : Byte) : TextOperand := .number b.toNat

/-- The text line of a command; the aging offset as a signed decimal. -/
def Instr.text : Instr → TextLine
  | .bcdEnc d => ⟨.bcdEnc, [byteText d]⟩
  | .bcdDec b => ⟨.bcdDec, [byteText b]⟩
  | .readTime dp => ⟨.readTime, destinationText dp⟩
  | .setTime y mo d wd h mi s =>
    ⟨.setTime, [byteText y, byteText mo, byteText d, byteText wd, byteText h, byteText mi, byteText s]⟩
  | .getTemp dp => ⟨.getTemp, destinationText dp⟩
  | .getStatus dp => ⟨.getStatus, destinationText dp⟩
  | .clearStatus mask => ⟨.clearStatus, [byteText mask]⟩
  | .getControl dp => ⟨.getControl, destinationText dp⟩
  | .updateControl mask => ⟨.updateControl, [byteText mask]⟩
  | .clearControl mask => ⟨.clearControl, [byteText mask]⟩
  | .enable32khz en => ⟨.enable32khz, [.number en.toNat]⟩
  | .setSqwFreq rsBits => ⟨.setSqwFreq, [byteText rsBits]⟩
  | .setAging offset => ⟨.setAging, [.number offset.toInt]⟩
  | .getAging dp => ⟨.getAging, destinationText dp⟩

end Sys2Proof.Machine
end

