-- ==== Sys2Proof/Safety.lean ====
section
/-! DEFINITION. The terms the claims use: the invariant of a run, what a safe run is, the premises a claim may name about
the environment (R57, R58), and the shapes in which a command ends. -/

namespace Sys2Proof.Machine

open Sys2Proof

/-! ## Invariant and safe runs -/

/-- A transaction the block can issue (R35, R53, R55, R56, R62): a read of one of the five runs, with as many bytes if it was
`OK` and none if not; or a write of the time registers, CONTROL, STATUS or AGING, the address first in the buffer and the
length counting it. -/
def Transaction.legal : Transaction → Bool
  | .read addr len status bytes =>
    [Access.time, .control, .status, .aging, .temp].any (fun r => r.addr == addr && r.len == len)
      && bytes.length == (if status = .ok then len else 0)
  | .write buffer length _ =>
    [Access.time, .control, .status, .aging].any
        (fun r => buffer.head? == some (BitVec.ofNat 8 r.addr) && buffer.length == r.len + 1)
      && length == buffer.length

/-- The status a transaction ended with. -/
def Transaction.status : Transaction → TransportStatus
  | .read _ _ status _ => status
  | .write _ _ status => status

/-- Between steps: no command is running and none is to be reset (R21, R230), the device registers are in canonical form
inside the map (R50), the parameters meet R9, every transaction so far was one the block can issue, and no response says
`NOT_READY` (R205). -/
def State.Inv (s : State) : Prop :=
  s.phase = .idle ∧ s.resetDue = none ∧ s.mem.wf = true ∧ s.masks.wf = true ∧ (∀ x ∈ s.bus, x.legal = true)
    ∧ ∀ r, s.response = some r → r.code ≠ .notReady

/-- `n` steps that meet no fault and no refusal. -/
def State.SafeRun (s : State) (n : Nat) : Prop := ∃ t, Host.Core.run Sys2Proof.core n s = .next t

/-! ## Premises about the environment -/

/-- The MOCK device (R58): every coming transaction is `OK` and nothing but a write changes a register. -/
def State.MockDevice (s : State) : Prop := ∀ k, s.turnAt k = Turn.mock

/-- The device itself leaves register `a` alone around every coming transaction; the statuses are free. -/
def State.Untouched (s : State) (a : Nat) : Prop :=
  ∀ k, ∀ c ∈ (s.turnAt k).before ++ (s.turnAt k).after, c.1.val ≠ a

/-! ## How a command ends -/

/-- The code of the last response. -/
def State.code (s : State) : Option ResultCode := s.response.map Response.code

/-- The result word the host gets. -/
def State.resultWord (s : State) : Option Word64 := s.response.map Response.word

/-- The command ends with `INVALID_PARAM` and touches neither the bus nor the device nor the environment's script. -/
def RejectsUntouched (i : Instr) (s : State) : Prop :=
  ∃ t, exec i s = .next t ∧ t.code = some .invalidParam ∧ t.phase = .idle ∧ t.bus = s.bus ∧ t.mem = s.mem
    ∧ t.script = s.script

/-- One read transaction of the run `r`, whatever the environment does: on failure the code `code f`; on `OK` success with
the payload of the bytes read. -/
def OneRead (i : Instr) (s : State) (r : Access) (code : TransportFailure → ResultCode)
    (payload : List Byte → Field56) : Prop :=
  let turn := s.turnAt 0
  let dev := s.mem.own turn.before
  let v := dev.readRun r.addr r.len
  (∀ f, turn.status = .failed f → ∃ t, exec i s = .next t ∧ t.code = some (code f) ∧ t.phase = .idle ∧ t.mem = dev
    ∧ t.bus = s.bus ++ [.read r.addr r.len (.failed f) []])
  ∧ (turn.status = .ok → ∃ t, exec i s = .next t ∧ t.response = some { code := .success, payload := payload v }
    ∧ t.phase = .idle ∧ t.mem = dev.own turn.after ∧ t.bus = s.bus ++ [.read r.addr r.len .ok v])

/-- One write transaction of the bytes `v` to the run `r`, whatever the environment does: on failure the code of the same
name and no register written; on `OK` success with payload 0. -/
def OneWrite (i : Instr) (s : State) (r : Access) (v : List Byte) : Prop :=
  let turn := s.turnAt 0
  let dev := s.mem.own turn.before
  let buffer := BitVec.ofNat 8 r.addr :: v
  (∀ f, turn.status = .failed f → ∃ t, exec i s = .next t ∧ t.code = some (propagate f) ∧ t.phase = .idle ∧ t.mem = dev
    ∧ t.bus = s.bus ++ [.write buffer (v.length + 1) (.failed f)])
  ∧ (turn.status = .ok → ∃ t, exec i s = .next t ∧ t.response = some { code := .success, payload := 0 }
    ∧ t.phase = .idle ∧ t.mem = (dev.writeRun r.addr v).own turn.after
    ∧ t.bus = s.bus ++ [.write buffer (v.length + 1) .ok])

/-- A read and then a write of the one-register run `r`, from the `k`-th coming transaction on, with the device at `dev` and
the transactions `pre` behind, whatever the environment does around either: the byte written is `edit` of the byte READ, not
of what the register holds by then (R240). A failed read issues no write; a failed write changes no register. -/
def ReadThenWriteFrom (k : Nat) (dev : Memory) (pre : List Transaction) (i : Instr) (s : State) (r : Access)
    (edit : Byte → Byte) : Prop :=
  let t0 := s.turnAt k
  let t1 := s.turnAt (k + 1)
  let dev0 := dev.own t0.before
  let b := dev0.read r.addr
  let dev1 := (dev0.own t0.after).own t1.before
  let buffer := [BitVec.ofNat 8 r.addr, edit b]
  (∀ f, t0.status = .failed f → ∃ t, exec i s = .next t ∧ t.code = some (propagate f) ∧ t.phase = .idle ∧ t.mem = dev0
    ∧ t.bus = s.bus ++ (pre ++ [.read r.addr 1 (.failed f) []]))
  ∧ (t0.status = .ok → ∀ f, t1.status = .failed f → ∃ t, exec i s = .next t ∧ t.code = some (propagate f)
    ∧ t.phase = .idle ∧ t.mem = dev1
    ∧ t.bus = s.bus ++ (pre ++ [.read r.addr 1 .ok [b], .write buffer 2 (.failed f)]))
  ∧ (t0.status = .ok → t1.status = .ok → ∃ t, exec i s = .next t
    ∧ t.response = some { code := .success, payload := 0 } ∧ t.phase = .idle
    ∧ t.mem = (dev1.write r.addr (edit b)).own t1.after
    ∧ t.bus = s.bus ++ (pre ++ [.read r.addr 1 .ok [b], .write buffer 2 .ok]))

/-- A command that is one read and one write of the run `r`. -/
def ReadThenWrite (i : Instr) (s : State) (r : Access) (edit : Byte → Byte) : Prop :=
  ReadThenWriteFrom 0 s.mem [] i s r edit

/-! ## What a command leaves alone (frames) -/

/-- The state a command never touches: the latched word, the host's inputs and the parameters. -/
def SameSurroundings (s t : State) : Prop := t.cw = s.cw ∧ t.host = s.host ∧ t.masks = s.masks ∧ t.rest = s.rest

/-- Every device register outside the given addresses reads as before, if the device itself leaves it alone. -/
def SameRegistersBut (stored : List Nat) (s t : State) : Prop :=
  ∀ a, a ∉ stored → s.Untouched a → t.mem.read a = s.mem.read a

/-- The addresses of a run of registers (R56). -/
def Access.addresses (r : Access) : List Nat := (List.range r.len).map (r.addr + ·)

end Sys2Proof.Machine
end

