-- ==== Sys2Proof/Certificates/Slice0/Obligations.lean ====
section
/-! DEFINITION. The statements for the provers. Each docstring names the rule of spec/ it formalises. -/

open Sys2Proof Sys2Proof.Machine

/-! ## Encoding -/

/-- Spec file 30, sections 1 to 3 (R80 to R84): no bit of a command is dropped by its encoding. -/
def Obligations.DecodeOfEncodeReturnsTheCommand : Prop := ∀ i : Instr, decode (encode i) = .ok i

/-- Spec file 30, sections 1 to 4: a legal word is the encoding of the command it decodes to; no other word is. -/
def Obligations.EncodeOfDecodeReturnsTheWord : Prop :=
  ∀ (w : Word64) (i : Instr), decode w = .ok i → encode i = w

/-- Spec file 30, section 3: a word decodes exactly if it selects a row by mask and match, the row is the decoded command's,
and no word selects two rows. -/
def Obligations.LegalWordsSelectExactlyOneRow : Prop :=
  (∀ w : Word64, (∃ i, decode w = .ok i) ↔ ∃ r ∈ commandRows, r.selects w = true)
  ∧ (∀ (w : Word64) (i : Instr) (r : CommandRow), decode w = .ok i → r ∈ commandRows → r.selects w = true →
      r.opcode = i.opcode)
  ∧ ∀ (w : Word64) (r r' : CommandRow), r ∈ commandRows → r' ∈ commandRows → r.selects w = true → r'.selects w = true →
      r = r'

/-- Spec file 95: one word of each format and of each family, written out from R81 to R84. -/
def Obligations.SampleWordsDecode : Prop :=
  decode 0x1000000000000019 = .ok (.bcdEnc 25)
  ∧ decode 0x2000000000000001 = .ok (.readTime true)
  ∧ decode 0x211909180310141E = .ok (.setTime 25 9 24 3 16 20 30)
  ∧ decode 0x3000000000000000 = .ok (.getTemp false)
  ∧ decode 0x4100000000000001 = .ok (.clearStatus 0x01)
  ∧ decode 0x5100000000000020 = .ok (.updateControl 0x20)
  ∧ decode 0x6000000000000001 = .ok (.enable32khz true)
  ∧ decode 0x70000000000000FF = .ok (.setSqwFreq 0xFF)
  ∧ decode 0x80000000000000FD = .ok (.setAging 0xFD)

/-- R86, R87: an unlisted opcode, or a reserved bit of a listed one's format, makes an illegal command; it completes with
`INVALID_PARAM`, issues no transaction and changes no state, and the host's next input is up. -/
def Obligations.IllegalCommandCompletesWithInvalidParam : Prop :=
  ((List.range 256).filter fun n => Opcode.ofByte (BitVec.ofNat 8 n) = none).length = 242
  ∧ (∀ w : Word64, Opcode.ofByte (opcodeByte w) = none → decode w = .error (.unknownOpcode (opcodeByte w)))
  ∧ (∀ (w : Word64) (op : Opcode), Opcode.ofByte (opcodeByte w) = some op → w &&& op.format.reserved ≠ 0 →
      decode w = .error (.reservedBitSet op))
  ∧ ∀ (s : State) (w : Word64) (e : DecodeError) (rest : List HostInput), s.phase = .idle →
      s.host = .command w none :: rest → decode w = .error e →
      ∃ t, step s = .next t ∧ t.code = some .invalidParam ∧ t.phase = .idle ∧ t.host = rest ∧ t.bus = s.bus
        ∧ t.mem = s.mem ∧ t.script = s.script ∧ t.rest = s.rest ∧ t.masks = s.masks ∧ t.latch = s.latch ∧ t.rbuf = s.rbuf
        ∧ t.wbuf = s.wbuf

/-- Spec file 30, section 6 (R84, R90): every command is what its text line assembles to, the mnemonics and the source's own
spellings are those of the tables, and either name of an operation names it and no other (a line is a list of tokens: log
entry 17). -/
def Obligations.AssembleOfTextReturnsTheCommand : Prop :=
  (∀ i : Instr, assemble (Instr.text i) = some i)
  ∧ Opcode.all.map mnemonic = ["BCD_ENC", "BCD_DEC", "READ_TIME", "SET_TIME", "GET_TEMP", "GET_STATUS", "CLEAR_STATUS",
      "GET_CONTROL", "UPDATE_CONTROL", "CLEAR_CONTROL", "ENABLE_32KHZ", "SET_SQW_FREQ", "SET_AGING", "GET_AGING"]
  ∧ Opcode.all.map sourceName = ["encode", "decode", "ReadTime", "SetTime", "GetTemperature", "GetStatus", "ClearStatus",
      "GetControl", "UpdateControl", "ClearControl", "Enable32KHz", "SetSQWFreq", "SetAging", "GetAging"]
  ∧ ∀ op : Opcode, operationNamed (mnemonic op) = some op ∧ operationNamed (sourceName op) = some op

/-! ## Steps, reset -/

/-- R80, spec file 10 section 2 (R23): the idle block latches the word the host presents and runs the decoded command on the
state so reached. -/
def Obligations.StepRunsTheDecodedCommand : Prop :=
  ∀ (s : State) (w : Word64) (resetAfter : Option Nat) (rest : List HostInput) (i : Instr), s.phase = .idle →
    s.host = .command w resetAfter :: rest → decode w = .ok i →
    step s =
      exec i { s with host := rest, cw := w, phase := .running 0, response := none, resetDue := resetAfter }

/-- Spec file 70, section 1 (R230): with nothing presented, the idle block waits. -/
def Obligations.IdleBlockWaitsForACommand : Prop :=
  ∀ s : State, s.phase = .idle → s.host = [] → step s = .next s

/-- Spec file 70, section 1 (R230, R232): a reset of the idle block leaves it idle without a response, issues no transaction
and does not touch the device. -/
def Obligations.HostResetLeavesTheDeviceAlone : Prop :=
  ∀ (s : State) (rest : List HostInput), s.phase = .idle → s.host = .reset :: rest →
    ∃ t, step s = .next t ∧ t.phase = .idle ∧ t.response = none ∧ t.host = rest ∧ t.bus = s.bus ∧ t.mem = s.mem
      ∧ t.script = s.script ∧ t.rest = s.rest ∧ t.draws = s.draws ∧ t.masks = s.masks

/-- The model's choice for U13 (log entry 8): in a state with a command under way, `step` stops. -/
def Obligations.NoStepTakesASecondCommand : Prop :=
  ∀ (s : State) (k : Nat), s.phase = .running k → step s = .fault .commandInProgress

/-- Spec file 70, section 1 (R230, R232): after reset the block is idle, whatever the device holds (`DEV_INIT`). That
`State.reset` lists nothing there is the model's choice (log entry 3). -/
def Obligations.ResetLeavesTheBlockIdle : Prop :=
  State.reset = State.resetWith []
  ∧ ∀ dev : Memory, (State.resetWith dev).phase = .idle ∧ (State.resetWith dev).response = none
    ∧ (State.resetWith dev).bus = [] ∧ (State.resetWith dev).mem = dev ∧ step (State.resetWith dev) = .next (State.resetWith dev)

/-- The invariant holds after reset, for every canonical content of the device (the masks it holds: log entry 2). -/
def Obligations.InvariantHoldsAfterReset : Prop := ∀ dev : Memory, dev.wf = true → (State.resetWith dev).Inv

/-- Every step keeps the invariant: idle between commands, the device registers canonical, the parameters within R9, every
transaction one of R35's, `NOT_READY` never said. -/
def Obligations.EveryStepKeepsTheInvariant : Prop := ∀ s t : State, s.Inv → step s = .next t → t.Inv

/-- No run from an idle block ever stops: every command, legal or not, ends and leaves the block idle (R210). -/
def Obligations.EveryRunOfAnIdleBlockGoesOn : Prop :=
  ∀ (n : Nat) (s : State), s.phase = .idle → ∃ t, Host.Core.run Sys2Proof.core n s = .next t ∧ t.phase = .idle

/-- Spec file 70, section 1 (R231): a reset after `k` transactions abandons the command: at most `k` are issued, and if `k`
were, there is no response and the block is idle. Giving the reset as a number of transactions is the model's choice (log
entry 11). -/
def Obligations.ResetAbandonsTheCommand : Prop :=
  ∀ (i : Instr) (s : State) (k : Nat), s.phase = .running 0 → s.resetDue = some k →
    ∃ t l, exec i s = .next t ∧ t.phase = .idle ∧ t.resetDue = none ∧ t.bus = s.bus ++ l ∧ l.length ≤ k
      ∧ (l.length = k → t.response = none)

/-- Spec file 70, section 1 (R231), at the one place where it shows most: CLEAR_STATUS reset between its read and its write
has read STATUS and writes nothing (log entry 11). -/
def Obligations.ResetBetweenReadAndWriteStoresNothing : Prop :=
  ∀ (s : State) (mask : Byte), s.phase = .running 0 → s.resetDue = some 1 → (s.turnAt 0).status = .ok →
    ∃ t, exec (.clearStatus mask) s = .next t ∧ t.phase = .idle ∧ t.response = none
      ∧ t.mem = (s.mem.own (s.turnAt 0).before).own (s.turnAt 0).after
      ∧ t.bus = s.bus ++ [.read 0x0F 1 .ok [(s.mem.own (s.turnAt 0).before).read 0x0F]]

/-! ## Result codes -/

/-- R200, R201: the numbers of the result codes and of the transport statuses. R203, R204: the code a transport failure
becomes, the one of the same name, or for GET_TEMP always `ERROR`. -/
def Obligations.CodesHaveTheirNumbers : Prop :=
  ResultCode.number .success = 0 ∧ ResultCode.number .error = 1 ∧ ResultCode.number .timeout = 2
  ∧ ResultCode.number .notReady = 3 ∧ ResultCode.number .invalidParam = 4 ∧ ResultCode.number .busy = 5
  ∧ (∀ c : ResultCode, c.number.toNat < 6)
  ∧ statusNumber .ok = 0 ∧ statusNumber (.failed .error) = 1 ∧ statusNumber (.failed .timeout) = 2
  ∧ statusNumber (.failed .busy) = 3
  ∧ propagate .error = .error ∧ propagate .timeout = .timeout ∧ propagate .busy = .busy
  ∧ ∀ f : TransportFailure, collapse f = .error

/-- Spec file 30, section 5 (R91): the fields of a response word. -/
def Obligations.ResponseWordHasItsFields : Prop :=
  ∀ r : Response, r.word.extractLsb' 59 5 = 0 ∧ r.word.extractLsb' 56 3 = r.code.number
    ∧ r.word.extractLsb' 0 56 = r.payload

/-- R27: a command that is not reset always ends with one response, and the block is idle again. -/
def Obligations.EveryCommandIsAnswered : Prop :=
  ∀ (i : Instr) (s : State), s.resetDue = none →
    ∃ t r, exec i s = .next t ∧ t.response = some r ∧ t.phase = .idle ∧ t.resetDue = none

/-- Spec file 60, section 1 (R206): the codes each command can return. -/
def Obligations.EachCommandReturnsOnlyItsCodes : Prop :=
  ∀ (i : Instr) (s t : State) (r : Response), s.resetDue = none → exec i s = .next t → t.response = some r →
    match i with
    | .bcdEnc _ => r.code = .success
    | .bcdDec _ => r.code = .success
    | .readTime _ => r.code ∈ [ResultCode.success, .invalidParam, .error, .timeout, .busy]
    | .setTime _ _ _ _ _ _ _ => r.code ∈ [ResultCode.success, .invalidParam, .error, .timeout, .busy]
    | .getTemp _ => r.code ∈ [ResultCode.success, .invalidParam, .error]
    | .getStatus _ => r.code ∈ [ResultCode.success, .invalidParam, .error, .timeout, .busy]
    | .clearStatus _ => r.code ∈ [ResultCode.success, .error, .timeout, .busy]
    | .getControl _ => r.code ∈ [ResultCode.success, .invalidParam, .error, .timeout, .busy]
    | .updateControl _ => r.code ∈ [ResultCode.success, .error, .timeout, .busy]
    | .clearControl _ => r.code ∈ [ResultCode.success, .error, .timeout, .busy]
    | .enable32khz _ => r.code ∈ [ResultCode.success, .error, .timeout, .busy]
    | .setSqwFreq _ => r.code ∈ [ResultCode.success, .error, .timeout, .busy]
    | .setAging _ => r.code ∈ [ResultCode.success, .error, .timeout, .busy]
    | .getAging _ => r.code ∈ [ResultCode.success, .invalidParam, .error, .timeout, .busy]

/-- Spec file 60, sections 1 and 2 (R202, R209): `INVALID_PARAM` from a legal word means exactly an absent destination or a
time field out of range, and then nothing has been done. -/
def Obligations.InvalidParamPrecedesAnyBusActivity : Prop :=
  ∀ (i : Instr) (s t : State), s.resetDue = none → exec i s = .next t →
    (t.code = some .invalidParam ↔
      match i with
      | .bcdEnc _ => False
      | .bcdDec _ => False
      | .readTime dp => dp = false
      | .setTime year month date weekday hour minute second =>
        ¬ (second.toNat ≤ 59 ∧ minute.toNat ≤ 59 ∧ hour.toNat ≤ 23 ∧ 1 ≤ weekday.toNat ∧ weekday.toNat ≤ 7
          ∧ 1 ≤ date.toNat ∧ date.toNat ≤ 31 ∧ 1 ≤ month.toNat ∧ month.toNat ≤ 12 ∧ year.toNat ≤ 99)
      | .getTemp dp => dp = false
      | .getStatus dp => dp = false
      | .clearStatus _ => False
      | .getControl dp => dp = false
      | .updateControl _ => False
      | .clearControl _ => False
      | .enable32khz _ => False
      | .setSqwFreq _ => False
      | .setAging _ => False
      | .getAging dp => dp = false)
    ∧ (t.code = some .invalidParam → t.bus = s.bus ∧ t.mem = s.mem ∧ t.script = s.script)

/-- R205: `NOT_READY` has its number, and neither a command nor an illegal word produces it. -/
def Obligations.NotReadyIsNeverProduced : Prop :=
  ResultCode.number .notReady = 3
  ∧ (∀ (i : Instr) (s t : State) (r : Response), exec i s = .next t → t.response = some r → r.code ≠ .notReady)
  ∧ ∀ (s t : State) (w : Word64) (resetAfter : Option Nat) (rest : List HostInput) (r : Response),
      s.host = .command w resetAfter :: rest → step s = .next t → t.response = some r → r.code ≠ .notReady

/-- R207: a command issues at most four transactions, every one but its last returned `OK`, success means that the last did
too, and a transaction that failed ends the command with another code. -/
def Obligations.CommandEndsAtItsFirstFailure : Prop :=
  ∀ (i : Instr) (s t : State), s.resetDue = none → exec i s = .next t →
    ∃ l, t.bus = s.bus ++ l ∧ l.length ≤ 4 ∧ (∀ x ∈ l.dropLast, x.status = .ok)
      ∧ (t.code = some .success ↔ t.code ≠ some .invalidParam ∧ ∀ x ∈ l, x.status = .ok)

/-- Spec file 10, section 2 (R21): the outcome of a command depends on its word and on what the environment and the device
hold, never on what an earlier command left in the block. What two such blocks had in common they have in common again.
R21 gives the code, the payload of a success whose value the spec states, the transactions and the device. That the free values
agree too (the payload of a failed command, R25; the byte of BCD_ENC above 99, R112), which no claim about the hardware may
read, is the model's choice: both runs draw them at the same count `draws` (log entries 5, 6 and 9). -/
def Obligations.OutcomeDoesNotDependOnEarlierCommands : Prop :=
  ∀ (s s' : State) (w : Word64) (resetAfter : Option Nat) (rest rest' : List HostInput), s.phase = .idle →
    s'.phase = .idle → s.host = .command w resetAfter :: rest → s'.host = .command w resetAfter :: rest' →
    s.mem = s'.mem → s.script = s'.script → s.rest = s'.rest → s.draws = s'.draws → s.masks = s'.masks →
    ∃ t t' l, step s = .next t ∧ step s' = .next t' ∧ t.response = t'.response ∧ t.bus = s.bus ++ l ∧ t'.bus = s'.bus ++ l
      ∧ t.phase = .idle ∧ t'.phase = .idle ∧ t.host = rest ∧ t'.host = rest' ∧ t.mem = t'.mem ∧ t.script = t'.script
      ∧ t.rest = t'.rest ∧ t.draws = t'.draws ∧ t.masks = t'.masks

/-! ## BCD codec -/

/-- R110: tens digit in the high nibble, units digit in the low nibble. -/
def Obligations.BcdEncoderPlacesTheDigits : Prop :=
  ∀ d : Byte, d.toNat ≤ 99 →
    ((bcdEnc d).extractLsb' 4 4).toNat = d.toNat / 10 ∧ ((bcdEnc d).extractLsb' 0 4).toNat = d.toNat % 10
    ∧ (bcdEnc d).toNat = d.toNat / 10 * 16 + d.toNat % 10 ∧ (bcdEnc d).toNat ≤ 0x99

/-- R111: ten times the high nibble plus the low nibble, for every byte; at most 165; one to one on digits, not on all
bytes. -/
def Obligations.BcdDecoderIsTotal : Prop :=
  (∀ b : Byte, (bcdDec b).toNat = (b.extractLsb' 4 4).toNat * 10 + (b.extractLsb' 0 4).toNat ∧ (bcdDec b).toNat ≤ 165)
  ∧ (bcdDec 0xFF).toNat = 165 ∧ (bcdDec 0x0A).toNat = 10 ∧ (bcdDec 0x10).toNat = 10
  ∧ ∀ b c : Byte, (b.extractLsb' 4 4).toNat ≤ 9 → (b.extractLsb' 0 4).toNat ≤ 9 → (c.extractLsb' 4 4).toNat ≤ 9 →
      (c.extractLsb' 0 4).toNat ≤ 9 → bcdDec b = bcdDec c → b = c

/-- R114: both round trips, on their stated domains, and the byte on which the second fails. -/
def Obligations.BcdCodecRoundTrips : Prop :=
  (∀ d : Byte, d.toNat ≤ 99 → bcdDec (bcdEnc d) = d)
  ∧ (∀ b : Byte, (b.extractLsb' 4 4).toNat ≤ 9 → (b.extractLsb' 0 4).toNat ≤ 9 → bcdEnc (bcdDec b) = b)
  ∧ bcdEnc (bcdDec 0x0A) = 0x10

/-- Spec file 40, section 2 (R112): BCD_ENC always succeeds without a transaction; up to 99 the byte is the encoding, above it
is some byte (a free value, log entry 6). -/
def Obligations.BcdEncAnswersTheEncoding : Prop :=
  ∀ (s : State) (d : Byte), s.resetDue = none →
    encode (.bcdEnc d) = 0x1000000000000000 ||| d.setWidth 64
    ∧ ∃ t b, exec (.bcdEnc d) s = .next t ∧ t.response = some { code := .success, payload := b.setWidth 56 }
      ∧ (d.toNat ≤ 99 → b = BitVec.ofNat 8 (d.toNat / 10 * 16 + d.toNat % 10)) ∧ t.phase = .idle ∧ t.bus = s.bus
      ∧ t.mem = s.mem

/-- R113: BCD_DEC always succeeds without a transaction, with the decimal of any byte. -/
def Obligations.BcdDecAnswersTheDecimal : Prop :=
  ∀ (s : State) (b : Byte), s.resetDue = none →
    encode (.bcdDec b) = 0x1100000000000000 ||| b.setWidth 64
    ∧ ∃ t, exec (.bcdDec b) s = .next t
      ∧ t.response = some { code := .success, payload := BitVec.ofNat 56 (b.toNat / 16 * 10 + b.toNat % 16) }
      ∧ t.phase = .idle ∧ t.bus = s.bus ∧ t.mem = s.mem

/-! ## Time -/

/-- R120: READ_TIME. -/
def Obligations.ReadTimeAnswersTheDecodedRegisters : Prop :=
  ∀ (s : State) (dp : Bool), s.resetDue = none →
    encode (.readTime dp) = (if dp then 0x2000000000000001 else 0x2000000000000000)
    ∧ (dp = false → RejectsUntouched (.readTime dp) s)
    ∧ (dp = true → OneRead (.readTime dp) s .time propagate fun v =>
        sevenBytes (bcdDec (byteAt v 6)) (bcdDec (byteAt v 5 &&& 0x7F)) (bcdDec (byteAt v 4 &&& 0x3F))
          (bcdDec (byteAt v 3 &&& 0x07)) (bcdDec (byteAt v 2 &&& 0x3F)) (bcdDec (byteAt v 1 &&& 0x7F))
          (bcdDec (byteAt v 0 &&& 0x7F)))

/-- R121: SET_TIME. -/
def Obligations.SetTimeChecksThenWritesSevenRegisters : Prop :=
  ∀ (s : State) (year month date weekday hour minute second : Byte), s.resetDue = none →
    encode (.setTime year month date weekday hour minute second) =
      0x21#8 ++ year ++ month ++ date ++ weekday ++ hour ++ minute ++ second
    ∧ (¬ (second.toNat ≤ 59 ∧ minute.toNat ≤ 59 ∧ hour.toNat ≤ 23 ∧ 1 ≤ weekday.toNat ∧ weekday.toNat ≤ 7
        ∧ 1 ≤ date.toNat ∧ date.toNat ≤ 31 ∧ 1 ≤ month.toNat ∧ month.toNat ≤ 12 ∧ year.toNat ≤ 99) →
        RejectsUntouched (.setTime year month date weekday hour minute second) s)
    ∧ (second.toNat ≤ 59 → minute.toNat ≤ 59 → hour.toNat ≤ 23 → 1 ≤ weekday.toNat → weekday.toNat ≤ 7 →
        1 ≤ date.toNat → date.toNat ≤ 31 → 1 ≤ month.toNat → month.toNat ≤ 12 → year.toNat ≤ 99 →
        OneWrite (.setTime year month date weekday hour minute second) s .time
          [bcdEnc second &&& 0x7F, bcdEnc minute &&& 0x7F, bcdEnc hour &&& 0x3F, bcdEnc weekday &&& 0x07,
           bcdEnc date &&& 0x3F, bcdEnc month, bcdEnc year])

/-- Spec file 41 (R121 corner cases, R122, R124): no mask of SET_TIME changes a bit of a legal record, and every reserved
bit, the century flag among them, is written as 0. -/
def Obligations.LegalTimeBytesHaveNoReservedBit : Prop :=
  ∀ t : TimeRecord, t.valid = true →
    t.registers = [bcdEnc t.seconds, bcdEnc t.minutes, bcdEnc t.hours, bcdEnc t.weekday, bcdEnc t.date, bcdEnc t.month,
      bcdEnc t.year]
    ∧ byteAt t.registers 0 &&& 0x80 = 0 ∧ byteAt t.registers 1 &&& 0x80 = 0 ∧ byteAt t.registers 2 &&& 0xC0 = 0
    ∧ byteAt t.registers 3 &&& 0xF8 = 0 ∧ byteAt t.registers 4 &&& 0xC0 = 0 ∧ byteAt t.registers 5 &&& 0x80 = 0

/-- Spec file 41 (R123): under the MOCK device, what SET_TIME writes READ_TIME returns, over two steps of the machine. -/
def Obligations.ReadTimeReturnsWhatSetTimeWrote : Prop :=
  ∀ (s : State) (year month date weekday hour minute second : Byte) (rest : List HostInput), s.phase = .idle →
    s.MockDevice → s.mem.wf = true →
    s.host = .command (encode (.setTime year month date weekday hour minute second)) none
      :: .command (encode (.readTime true)) none :: rest →
    second.toNat ≤ 59 → minute.toNat ≤ 59 → hour.toNat ≤ 23 → 1 ≤ weekday.toNat → weekday.toNat ≤ 7 → 1 ≤ date.toNat →
    date.toNat ≤ 31 → 1 ≤ month.toNat → month.toNat ≤ 12 → year.toNat ≤ 99 →
    ∃ t, Host.Core.run Sys2Proof.core 2 s = .next t ∧ t.host = rest
      ∧ t.response = some { code := .success, payload := sevenBytes year month date weekday hour minute second }

/-! ## Temperature -/

/-- R131: the decoder is the 10-bit two's-complement number of the two bytes, in range, blind to the low six bits. -/
def Obligations.TemperatureIsATenBitNumber : Prop :=
  ∀ msb lsb : Byte,
    tempDec msb lsb = 4 * (if msb.toNat < 128 then (msb.toNat : Int) else msb.toNat - 256) + lsb.toNat / 64
    ∧ tempDec msb lsb = (msb ++ lsb.extractLsb' 6 2).toInt
    ∧ -512 ≤ tempDec msb lsb ∧ tempDec msb lsb ≤ 511
    ∧ tempDec msb lsb = tempDec msb (lsb &&& 0xC0)

/-- R130, R204: GET_TEMP; every transport failure is `ERROR`. -/
def Obligations.GetTempAnswersQuarterUnits : Prop :=
  ∀ (s : State) (dp : Bool), s.resetDue = none →
    encode (.getTemp dp) = (if dp then 0x3000000000000001 else 0x3000000000000000)
    ∧ (dp = false → RejectsUntouched (.getTemp dp) s)
    ∧ (dp = true → OneRead (.getTemp dp) s .temp (fun _ => .error) fun v =>
        ((byteAt v 0 ++ (byteAt v 1).extractLsb' 6 2).signExtend 16).setWidth 56)

/-! ## STATUS and CONTROL -/

/-- R140: GET_STATUS. -/
def Obligations.GetStatusAnswersTheRawByte : Prop :=
  ∀ (s : State) (dp : Bool), s.resetDue = none →
    encode (.getStatus dp) = (if dp then 0x4000000000000001 else 0x4000000000000000)
    ∧ (dp = false → RejectsUntouched (.getStatus dp) s)
    ∧ (dp = true → OneRead (.getStatus dp) s .status propagate fun v => (byteAt v 0).setWidth 56)

/-- R141: CLEAR_STATUS. -/
def Obligations.ClearStatusClearsTheMaskedBits : Prop :=
  ∀ (s : State) (mask : Byte), s.resetDue = none →
    encode (.clearStatus mask) = 0x4100000000000000 ||| mask.setWidth 64
    ∧ ReadThenWrite (.clearStatus mask) s .status fun b => b &&& ~~~mask

/-- R150: GET_CONTROL. -/
def Obligations.GetControlAnswersTheRawByte : Prop :=
  ∀ (s : State) (dp : Bool), s.resetDue = none →
    encode (.getControl dp) = (if dp then 0x5000000000000001 else 0x5000000000000000)
    ∧ (dp = false → RejectsUntouched (.getControl dp) s)
    ∧ (dp = true → OneRead (.getControl dp) s .control propagate fun v => (byteAt v 0).setWidth 56)

/-- R151: UPDATE_CONTROL. -/
def Obligations.UpdateControlSetsTheMaskedBits : Prop :=
  ∀ (s : State) (mask : Byte), s.resetDue = none →
    encode (.updateControl mask) = 0x5100000000000000 ||| mask.setWidth 64
    ∧ ReadThenWrite (.updateControl mask) s .control fun b => b ||| mask

/-- R152: CLEAR_CONTROL. -/
def Obligations.ClearControlClearsTheMaskedBits : Prop :=
  ∀ (s : State) (mask : Byte), s.resetDue = none →
    encode (.clearControl mask) = 0x5200000000000000 ||| mask.setWidth 64
    ∧ ReadThenWrite (.clearControl mask) s .control fun b => b &&& ~~~mask

/-- Spec file 44 (R153): under the MOCK device, setting and then clearing the same bits of CONTROL leaves them clear and the
others as they were; that is the original byte exactly if none was set. -/
def Obligations.UpdateThenClearLeavesTheMaskClear : Prop :=
  ∀ (s : State) (m : Byte) (rest : List HostInput), s.phase = .idle → s.MockDevice → s.mem.wf = true →
    s.host = .command (encode (.updateControl m)) none :: .command (encode (.clearControl m)) none :: rest →
    ∃ t, Host.Core.run Sys2Proof.core 2 s = .next t ∧ t.code = some .success
      ∧ t.mem.read 0x0E = s.mem.read 0x0E &&& ~~~m
      ∧ (t.mem.read 0x0E = s.mem.read 0x0E ↔ s.mem.read 0x0E &&& m = 0)

/-! ## 32 kHz output -/

/-- R160: with `en = 0` STATUS is read and written, CONTROL neither. With `en = 1` CONTROL is read once and written back only
if `EOSC` was set in the byte read; then STATUS is read and written, always. Each failure ends the command where it
happens. -/
def Obligations.Enable32khzFollowsItsTransactionPlan : Prop :=
  ∀ s : State, s.resetDue = none →
    let t0 := s.turnAt 0
    let t1 := s.turnAt 1
    let dev0 := s.mem.own t0.before
    let c := dev0.read 0x0E
    let dev1 := (dev0.own t0.after).own t1.before
    let readControl : Transaction := .read 0x0E 1 .ok [c]
    encode (.enable32khz false) = 0x6000000000000000
    ∧ encode (.enable32khz true) = 0x6000000000000001
    ∧ (ReadThenWrite (.enable32khz false) s .status fun b => b &&& ~~~s.masks.en32k)
    ∧ (∀ f, t0.status = .failed f → ∃ t, exec (.enable32khz true) s = .next t ∧ t.code = some (propagate f)
        ∧ t.phase = .idle ∧ t.mem = dev0 ∧ t.bus = s.bus ++ [.read 0x0E 1 (.failed f) []])
    ∧ (t0.status = .ok → c &&& s.masks.eosc = 0 →
        ReadThenWriteFrom 1 (dev0.own t0.after) [readControl] (.enable32khz true) s .status fun b => b ||| s.masks.en32k)
    ∧ (t0.status = .ok → c &&& s.masks.eosc ≠ 0 → ∀ f, t1.status = .failed f →
        ∃ t, exec (.enable32khz true) s = .next t ∧ t.code = some (propagate f) ∧ t.phase = .idle ∧ t.mem = dev1
          ∧ t.bus = s.bus ++ [readControl, .write [0x0E, c &&& ~~~s.masks.eosc] 2 (.failed f)])
    ∧ (t0.status = .ok → c &&& s.masks.eosc ≠ 0 → t1.status = .ok →
        ReadThenWriteFrom 2 ((dev1.write 0x0E (c &&& ~~~s.masks.eosc)).own t1.after)
          [readControl, .write [0x0E, c &&& ~~~s.masks.eosc] 2 .ok] (.enable32khz true) s .status
          fun b => b ||| s.masks.en32k)

/-- Spec file 70, section 3 (R241): where the device leaves CONTROL and STATUS alone, a successful ENABLE_32KHZ with
`en = 1` leaves the oscillator on and the output enabled, every other bit of both, and every other register that the device
leaves alone, as it was. -/
def Obligations.OscillatorIsOnWhenOutputIsEnabled : Prop :=
  ∀ s t : State, s.resetDue = none → s.mem.wf = true → s.Untouched 0x0E → s.Untouched 0x0F → exec (.enable32khz true) s = .next t →
    t.code = some .success →
    t.mem.read 0x0E = s.mem.read 0x0E &&& ~~~s.masks.eosc ∧ t.mem.read 0x0F = s.mem.read 0x0F ||| s.masks.en32k
    ∧ ∀ a, a ≠ 0x0E → a ≠ 0x0F → s.Untouched a → t.mem.read a = s.mem.read a

/-- Spec file 10 section 4 (R32) and spec file 70 section 3 (R241): whatever the command and however it ends, a bit of
STATUS that was 0 is 1 afterwards only if the device set it, or if it is `EN32K` and the command ENABLE_32KHZ with `en = 1`. -/
def Obligations.OnlyEnable32khzSetsAStatusBit : Prop :=
  ∀ (i : Instr) (s t : State), s.mem.wf = true → s.Untouched 0x0F → exec i s = .next t →
    t.mem.read 0x0F &&& ~~~(s.mem.read 0x0F) &&& ~~~(if i = .enable32khz true then s.masks.en32k else 0) = 0

/-! ## Square wave, aging -/

/-- R170: SET_SQW_FREQ. -/
def Obligations.SetSqwFreqRewritesControl : Prop :=
  ∀ (s : State) (rs : Byte), s.resetDue = none →
    encode (.setSqwFreq rs) = 0x7000000000000000 ||| rs.setWidth 64
    ∧ ReadThenWrite (.setSqwFreq rs) s .control fun b =>
        (b &&& ~~~(s.masks.eosc ||| s.masks.intcn ||| s.masks.rsMask)) ||| (rs &&& s.masks.rsMask)

/-- R31 and spec file 46 (R170): for parameters within R9, the rate field of `k << RS_SHIFT` is `k`; the byte SET_SQW_FREQ
writes has the operand's rate bits and selects their rate, has the oscillator on and interrupt mode off, and keeps every bit
that is none of these. -/
def Obligations.WrittenRateIsTheOperandsRate : Prop :=
  ∀ (m : Masks) (rs b : Byte), m.wf = true →
    (∀ k < 4, rateField m (BitVec.ofNat 8 k <<< m.rsShift) = k)
    ∧ editRate m rs b &&& m.rsMask = rs &&& m.rsMask
    ∧ rateField m (editRate m rs b) = rateField m rs ∧ rateField m rs < 4
    ∧ (SqwRate.hertz (rateSelected m (editRate m rs b)) =
        if rateField m rs = 0 then 1 else if rateField m rs = 1 then 1024 else if rateField m rs = 2 then 4096 else 8192)
    ∧ editRate m rs b &&& m.eosc = 0 ∧ editRate m rs b &&& m.intcn = 0
    ∧ editRate m rs b &&& ~~~(m.eosc ||| m.intcn ||| m.rsMask) = b &&& ~~~(m.eosc ||| m.intcn ||| m.rsMask)
    ∧ editRate m rs b &&& (m.bbsqw ||| m.conv ||| m.a2ie ||| m.a1ie) = b &&& (m.bbsqw ||| m.conv ||| m.a2ie ||| m.a1ie)

/-- R180: SET_AGING. -/
def Obligations.SetAgingWritesTheByteAsGiven : Prop :=
  ∀ (s : State) (offset : Byte), s.resetDue = none →
    encode (.setAging offset) = 0x8000000000000000 ||| offset.setWidth 64
    ∧ OneWrite (.setAging offset) s .aging [offset]

/-- R181: GET_AGING. -/
def Obligations.GetAgingAnswersTheRawByte : Prop :=
  ∀ (s : State) (dp : Bool), s.resetDue = none →
    encode (.getAging dp) = (if dp then 0x8100000000000001 else 0x8100000000000000)
    ∧ (dp = false → RejectsUntouched (.getAging dp) s)
    ∧ (dp = true → OneRead (.getAging dp) s .aging propagate fun v => (byteAt v 0).setWidth 56)

/-- Spec file 47 (R181, corner cases): under the MOCK device, GET_AGING returns what SET_AGING wrote, for every byte. -/
def Obligations.GetAgingReturnsWhatSetAgingWrote : Prop :=
  ∀ (s : State) (x : Byte) (rest : List HostInput), s.phase = .idle → s.MockDevice → s.mem.wf = true →
    s.host = .command (encode (.setAging x)) none :: .command (encode (.getAging true)) none :: rest →
    ∃ t, Host.Core.run Sys2Proof.core 2 s = .next t
      ∧ t.response = some { code := .success, payload := x.setWidth 56 }

/-! ## Hazards -/

/-- Spec file 70, section 3 (R240): the lost update. A STATUS bit that the device raises between the read and the write of
CLEAR_STATUS, outside the mask and clear when it was read, is clear again after the write. -/
def Obligations.ClearStatusCanLoseAFlag : Prop :=
  ∀ (s : State) (mask flag v : Byte), s.resetDue = none → s.mem.wf = true → (s.turnAt 0).status = .ok → (s.turnAt 1).status = .ok →
    (s.turnAt 0).before = [] → (s.turnAt 0).after = [] → (s.turnAt 1).before = [(0x0F, v)] → (s.turnAt 1).after = [] →
    flag &&& mask = 0 → s.mem.read 0x0F &&& flag = 0 → v &&& flag = flag →
    ∃ t, exec (.clearStatus mask) s = .next t ∧ t.code = some .success ∧ t.mem.read 0x0F &&& flag = 0

/-- Spec file 10, section 4 (R29, R34): no command changes an alarm or temperature register, and none issues a transaction
that reaches an alarm register or leaves the map. -/
def Obligations.AlarmRegistersAreNeverReached : Prop :=
  ∀ (i : Instr) (s t : State), s.mem.wf = true → exec i s = .next t →
    (∀ a, (0x07 ≤ a ∧ a ≤ 0x0D) ∨ 0x11 ≤ a → s.Untouched a → t.mem.read a = s.mem.read a)
    ∧ ∃ l, t.bus = s.bus ++ l ∧ ∀ x ∈ l,
        match x with
        | .read addr len _ _ => addr + len ≤ 0x07 ∨ (0x0E ≤ addr ∧ addr + len ≤ 0x13)
        | .write buffer length _ => ∃ b v, buffer = b :: v ∧ length = buffer.length
          ∧ (b.toNat + v.length ≤ 0x07 ∨ (0x0E ≤ b.toNat ∧ b.toNat + v.length ≤ 0x11))

/-- The transactions of a successful command, in order (spec file 10 section 4, R35; spec file 70 section 4, R250). -/
def Obligations.SuccessfulCommandIssuesItsPlan : Prop :=
  ∀ (i : Instr) (s t : State), s.resetDue = none → exec i s = .next t → t.code = some .success →
    ∃ l : List Transaction, t.bus = s.bus ++ l ∧
      match i with
      | .bcdEnc _ => l = []
      | .bcdDec _ => l = []
      | .readTime _ => ∃ v, l = [.read 0x00 7 .ok v]
      | .setTime _ _ _ _ _ _ _ => ∃ v, v.length = 7 ∧ l = [.write (0x00 :: v) 8 .ok]
      | .getTemp _ => ∃ v, l = [.read 0x11 2 .ok v]
      | .getStatus _ => ∃ b, l = [.read 0x0F 1 .ok [b]]
      | .clearStatus _ => ∃ b c, l = [.read 0x0F 1 .ok [b], .write [0x0F, c] 2 .ok]
      | .getControl _ => ∃ b, l = [.read 0x0E 1 .ok [b]]
      | .updateControl _ => ∃ b c, l = [.read 0x0E 1 .ok [b], .write [0x0E, c] 2 .ok]
      | .clearControl _ => ∃ b c, l = [.read 0x0E 1 .ok [b], .write [0x0E, c] 2 .ok]
      | .enable32khz false => ∃ b c, l = [.read 0x0F 1 .ok [b], .write [0x0F, c] 2 .ok]
      | .enable32khz true => ∃ a b c,
          (a &&& s.masks.eosc = 0 ∧ l = [.read 0x0E 1 .ok [a], .read 0x0F 1 .ok [b], .write [0x0F, c] 2 .ok])
          ∨ (a &&& s.masks.eosc ≠ 0 ∧ l = [.read 0x0E 1 .ok [a], .write [0x0E, a &&& ~~~s.masks.eosc] 2 .ok,
              .read 0x0F 1 .ok [b], .write [0x0F, c] 2 .ok])
      | .setSqwFreq _ => ∃ b c, l = [.read 0x0E 1 .ok [b], .write [0x0E, c] 2 .ok]
      | .setAging x => l = [.write [0x10, x] 2 .ok]
      | .getAging _ => ∃ b, l = [.read 0x10 1 .ok [b]]

/-- Spec file 10, section 2 (R23): while a command runs `RBUF` holds the bytes of its block read, `LATCH` the byte its last
read-modify-write read, and `WBUF` the buffer of its last write, a write-back computed from `LATCH`. The statement reads them
after the successful command, where R23 calls them dead: that they keep those bytes, and what a shorter buffer leaves behind
it, is the model's choice (log entry 15). -/
def Obligations.TransientRegistersHoldTheBytesMoved : Prop :=
  ∀ (i : Instr) (s t : State), s.resetDue = none → exec i s = .next t → t.code = some .success →
    let dev := s.mem.own (s.turnAt 0).before
    (i = .readTime true → t.rbuf.toList = dev.readRun 0x00 7)
    ∧ (i = .getTemp true → t.rbuf.toList = dev.readRun 0x11 2 ++ s.rbuf.toList.drop 2)
    ∧ (∀ x, i = .setAging x → t.wbuf.toList = [0x10, x] ++ s.wbuf.toList.drop 2)
    ∧ (∀ year month date weekday hour minute second, i = .setTime year month date weekday hour minute second →
        t.wbuf.toList = [0x00, bcdEnc second &&& 0x7F, bcdEnc minute &&& 0x7F, bcdEnc hour &&& 0x3F,
          bcdEnc weekday &&& 0x07, bcdEnc date &&& 0x3F, bcdEnc month, bcdEnc year])
    ∧ (∀ mask, i = .clearStatus mask →
        t.latch = dev.read 0x0F ∧ t.wbuf.toList = [0x0F, t.latch &&& ~~~mask] ++ s.wbuf.toList.drop 2)
    ∧ (∀ mask, i = .updateControl mask →
        t.latch = dev.read 0x0E ∧ t.wbuf.toList = [0x0E, t.latch ||| mask] ++ s.wbuf.toList.drop 2)
    ∧ (∀ mask, i = .clearControl mask →
        t.latch = dev.read 0x0E ∧ t.wbuf.toList = [0x0E, t.latch &&& ~~~mask] ++ s.wbuf.toList.drop 2)
    ∧ (∀ rs, i = .setSqwFreq rs →
        t.latch = dev.read 0x0E
        ∧ t.wbuf.toList = [0x0E, (t.latch &&& ~~~(s.masks.eosc ||| s.masks.intcn ||| s.masks.rsMask)) ||| (rs &&& s.masks.rsMask)]
            ++ s.wbuf.toList.drop 2)
    ∧ (i = .enable32khz false →
        t.latch = dev.read 0x0F ∧ t.wbuf.toList = [0x0F, t.latch &&& ~~~s.masks.en32k] ++ s.wbuf.toList.drop 2)
    ∧ (i = .enable32khz true →
        (∃ l, t.bus = l ++ [.read 0x0F 1 .ok [t.latch], .write [0x0F, t.latch ||| s.masks.en32k] 2 .ok])
        ∧ t.wbuf.toList = [0x0F, t.latch ||| s.masks.en32k] ++ s.wbuf.toList.drop 2)

/-! ## Frames

Where a frame speaks of `CW`, `LATCH`, `RBUF` or `WBUF` after the command, R23 calls their content dead: that they keep it is
the model's choice (log entry 15). -/

/-- BCD_ENC and BCD_DEC leave the device, the environment's script, the transactions and every transient register alone (`CW`,
`LATCH`, `RBUF`, `WBUF`: log entry 15). -/
def Obligations.FrameOfTheCodecCommands : Prop :=
  ∀ (x : Byte) (i : Instr) (s t : State), i ∈ [Instr.bcdEnc x, .bcdDec x] → s.resetDue = none → exec i s = .next t →
    SameSurroundings s t ∧ t.mem = s.mem ∧ t.script = s.script ∧ t.bus = s.bus ∧ t.latch = s.latch ∧ t.rbuf = s.rbuf
    ∧ t.wbuf = s.wbuf

/-- READ_TIME, GET_TEMP, GET_STATUS, GET_CONTROL and GET_AGING write no register of the device and neither `LATCH` nor
`WBUF`; only the block reads READ_TIME and GET_TEMP write `RBUF` (`CW`, `LATCH`, `RBUF`, `WBUF`: log entry 15). -/
def Obligations.FrameOfTheReadingCommands : Prop :=
  ∀ (dp : Bool) (i : Instr) (s t : State),
    i ∈ [Instr.readTime dp, .getTemp dp, .getStatus dp, .getControl dp, .getAging dp] → s.resetDue = none → s.mem.wf = true →
    exec i s = .next t →
    SameSurroundings s t ∧ SameRegistersBut [] s t ∧ t.latch = s.latch ∧ t.wbuf = s.wbuf
    ∧ (i ∈ [Instr.getStatus dp, .getControl dp, .getAging dp] → t.rbuf = s.rbuf)

/-- SET_TIME and SET_AGING write no register of the device but those of their one write, and neither `LATCH` nor `RBUF` (`CW`,
`LATCH`, `RBUF`: log entry 15). -/
def Obligations.FrameOfTheWritingCommands : Prop :=
  ∀ (year month date weekday hour minute second : Byte) (i : Instr) (r : Access) (s t : State),
    (i = .setTime year month date weekday hour minute second ∧ r = .time) ∨ (i = .setAging second ∧ r = .aging) →
    s.resetDue = none → s.mem.wf = true → exec i s = .next t →
    SameSurroundings s t ∧ SameRegistersBut r.addresses s t ∧ t.latch = s.latch ∧ t.rbuf = s.rbuf

/-- CLEAR_STATUS, UPDATE_CONTROL, CLEAR_CONTROL, SET_SQW_FREQ and ENABLE_32KHZ with `en = 0` write no register of the device
but their one, and not `RBUF` (`CW`, `RBUF`: log entry 15). -/
def Obligations.FrameOfTheReadModifyWrites : Prop :=
  ∀ (x : Byte) (i : Instr) (r : Access) (s t : State),
    (i ∈ [Instr.clearStatus x, .enable32khz false] ∧ r = .status)
      ∨ (i ∈ [Instr.updateControl x, .clearControl x, .setSqwFreq x] ∧ r = .control) →
    s.resetDue = none → s.mem.wf = true → exec i s = .next t →
    SameSurroundings s t ∧ SameRegistersBut r.addresses s t ∧ t.rbuf = s.rbuf

/-- ENABLE_32KHZ with `en = 1` writes no register of the device but CONTROL and STATUS, CONTROL in no bit but `EOSC` where
the device leaves it alone, STATUS in no bit but `EN32K` likewise, and not `RBUF` (`CW`, `RBUF`: log entry 15). -/
def Obligations.FrameOfEnable32khz : Prop :=
  ∀ s t : State, s.resetDue = none → s.mem.wf = true → exec (.enable32khz true) s = .next t →
    SameSurroundings s t ∧ SameRegistersBut (Access.control.addresses ++ Access.status.addresses) s t ∧ t.rbuf = s.rbuf
    ∧ (s.Untouched 0x0E → t.mem.read 0x0E &&& ~~~s.masks.eosc = s.mem.read 0x0E &&& ~~~s.masks.eosc)
    ∧ (s.Untouched 0x0F → t.mem.read 0x0F &&& ~~~s.masks.en32k = s.mem.read 0x0F &&& ~~~s.masks.en32k)

/-! ## Parameters -/

/-- Spec file 00, section 4 (R8, R9): the default masks (log entry 2) meet the constraints. -/
def Obligations.DefaultMasksMeetTheConstraints : Prop :=
  Config.defaultMasks.wf = true ∧ Config.defaultMasks.rsMask = 0x18 ∧ State.reset.masks = Config.defaultMasks
end

