-- ==== Sys2Proof/Laws/Decode.lean ====
section
/-! SUPPORT. The bits of a command word, field by field, and what the decoder's parts read of an encoded command. -/

namespace Sys2Proof

/-! ## Bits -/

/-- Bit `i` of a word made of an opcode byte and an operand field (R80). -/
theorem getLsbD_word (b : Byte) (x : Field56) (i : Nat) :
    BitVec.getLsbD (w := 64) (b ++ x) i = if i < 56 then x.getLsbD i else b.getLsbD (i - 56) := by
  have := @BitVec.getLsbD_append 8 56 i b x
  simpa using this

theorem getLsbD_byteOperand (b : Byte) (i : Nat) : (byteOperand b).getLsbD i = b.getLsbD i := by
  have := @BitVec.getLsbD_append 48 8 i 0 b
  unfold byteOperand
  rw [this]
  by_cases h : i < 8
  · simp [h]
  · simp [h, BitVec.getLsbD_of_ge b i (by omega)]

theorem getLsbD_bitOperand (b : Bool) (i : Nat) : (bitOperand b).getLsbD i = (decide (i = 0) && b) := by
  have := @BitVec.getLsbD_append 55 1 i 0 (BitVec.ofBool b)
  unfold bitOperand
  rw [this]
  by_cases h : i = 0
  · simp [h]
  · simp [h]

theorem getLsbD_sevenBytes (a b c d e f g : Byte) (i : Nat) :
    (sevenBytes a b c d e f g).getLsbD i =
      if i < 8 then g.getLsbD i else if i < 16 then f.getLsbD (i - 8) else if i < 24 then e.getLsbD (i - 16)
      else if i < 32 then d.getLsbD (i - 24) else if i < 40 then c.getLsbD (i - 32)
      else if i < 48 then b.getLsbD (i - 40) else a.getLsbD (i - 48) := by
  unfold sevenBytes
  rw [show (a ++ b ++ c ++ d ++ e ++ f ++ g : Field56).getLsbD i = _ from
        @BitVec.getLsbD_append 48 8 i (a ++ b ++ c ++ d ++ e ++ f) g,
    show (a ++ b ++ c ++ d ++ e ++ f : BitVec 48).getLsbD (i - 8) = _ from
        @BitVec.getLsbD_append 40 8 _ (a ++ b ++ c ++ d ++ e) f,
    show (a ++ b ++ c ++ d ++ e : BitVec 40).getLsbD (i - 8 - 8) = _ from
        @BitVec.getLsbD_append 32 8 _ (a ++ b ++ c ++ d) e,
    show (a ++ b ++ c ++ d : BitVec 32).getLsbD (i - 8 - 8 - 8) = _ from @BitVec.getLsbD_append 24 8 _ (a ++ b ++ c) d,
    show (a ++ b ++ c : BitVec 24).getLsbD (i - 8 - 8 - 8 - 8) = _ from @BitVec.getLsbD_append 16 8 _ (a ++ b) c,
    show (a ++ b : BitVec 16).getLsbD (i - 8 - 8 - 8 - 8 - 8) = _ from @BitVec.getLsbD_append 8 8 _ a b]
  simp only [Nat.sub_sub]
  repeat' split
  all_goals first | rfl | omega

/-- The reserved bits of format B are 55:8 (R82). -/
theorem getLsbD_reserved_b (i : Nat) : Format.b.reserved.getLsbD i = (decide (8 ≤ i) && decide (i < 56)) := by
  by_cases h : i < 64
  · have : ∀ j : Fin 64, Format.b.reserved.getLsbD j = (decide (8 ≤ j.val) && decide (j.val < 56)) := by decide
    exact this ⟨i, h⟩
  · rw [BitVec.getLsbD_of_ge _ _ (by omega)]; simp; omega

/-- The reserved bits of format G are 55:1 (R82). -/
theorem getLsbD_reserved_g (i : Nat) : Format.g.reserved.getLsbD i = (decide (1 ≤ i) && decide (i < 56)) := by
  by_cases h : i < 64
  · have : ∀ j : Fin 64, Format.g.reserved.getLsbD j = (decide (1 ≤ j.val) && decide (j.val < 56)) := by decide
    exact this ⟨i, h⟩
  · rw [BitVec.getLsbD_of_ge _ _ (by omega)]; simp; omega

/-! ## The opcode -/

@[simp] theorem opcodeByte_word (b : Byte) (x : Field56) : opcodeByte (b ++ x) = b := by
  refine BitVec.eq_of_getLsbD_eq fun i hi => ?_
  rw [opcodeByte, BitVec.getLsbD_extractLsb', getLsbD_word]
  simp [hi]

@[simp] theorem Opcode.ofByte_byte (op : Opcode) : Opcode.ofByte op.byte = some op := by cases op <;> decide

/-- A listed byte is the byte of the opcode it lists (R84). -/
theorem Opcode.byte_of_ofByte {b : Byte} {op : Opcode} (h : Opcode.ofByte b = some op) : op.byte = b := by
  have := List.find?_some h
  simpa using this

/-! ## The fields -/

/-- A byte field of a word is a byte field of its operand field. -/
theorem byteField_word (op : Byte) (x : Field56) (n : Nat) (h : n + 8 ≤ 56) :
    byteField (op ++ x) n = x.extractLsb' n 8 := by
  refine BitVec.eq_of_getLsbD_eq fun i hi => ?_
  rw [byteField, BitVec.getLsbD_extractLsb', BitVec.getLsbD_extractLsb', getLsbD_word, if_pos (by omega)]

@[simp] theorem byteField_byteOperand (op b : Byte) : byteField (op ++ byteOperand b) 0 = b := by
  rw [byteField_word _ _ _ (by omega)]
  refine BitVec.eq_of_getLsbD_eq fun i hi => ?_
  rw [BitVec.getLsbD_extractLsb', getLsbD_byteOperand]
  simp [hi]

@[simp] theorem bitField_bitOperand (op : Byte) (x : Bool) : bitField (op ++ bitOperand x) = x := by
  rw [bitField, getLsbD_word, getLsbD_bitOperand]
  rfl

/-- The seven byte fields of format T (R81). -/
theorem byteField_sevenBytes (op a b c d e f g : Byte) :
    byteField (op ++ sevenBytes a b c d e f g) 0 = g ∧ byteField (op ++ sevenBytes a b c d e f g) 8 = f
    ∧ byteField (op ++ sevenBytes a b c d e f g) 16 = e ∧ byteField (op ++ sevenBytes a b c d e f g) 24 = d
    ∧ byteField (op ++ sevenBytes a b c d e f g) 32 = c ∧ byteField (op ++ sevenBytes a b c d e f g) 40 = b
    ∧ byteField (op ++ sevenBytes a b c d e f g) 48 = a := by
  refine ⟨?_, ?_, ?_, ?_, ?_, ?_, ?_⟩
  all_goals
    rw [byteField_word _ _ _ (by omega)]
    refine BitVec.eq_of_getLsbD_eq fun i hi => ?_
    rw [BitVec.getLsbD_extractLsb', getLsbD_sevenBytes]
    simp only [hi, decide_true, Bool.true_and]
    repeat' split
  all_goals first | omega | simp

/-! ## The reserved bits -/

@[simp] theorem reserved_byteOperand (op b : Byte) : (op ++ byteOperand b : Word64) &&& Format.b.reserved = 0 := by
  refine BitVec.eq_of_getLsbD_eq fun i hi => ?_
  rw [BitVec.getLsbD_and, getLsbD_reserved_b, getLsbD_word, getLsbD_byteOperand]
  by_cases h : i < 56 <;> by_cases h8 : 8 ≤ i <;> simp [h, h8]

@[simp] theorem reserved_bitOperand (op : Byte) (b : Bool) : (op ++ bitOperand b : Word64) &&& Format.g.reserved = 0 := by
  refine BitVec.eq_of_getLsbD_eq fun i hi => ?_
  rw [BitVec.getLsbD_and, getLsbD_reserved_g, getLsbD_word, getLsbD_bitOperand]
  by_cases h : i < 56 <;> by_cases h8 : 1 ≤ i <;> simp [h, h8]
  omega

/-- A word with the reserved bits of format B clear is its opcode byte above a byte operand. -/
theorem word_of_reserved_b {w : Word64} (h : w &&& Format.b.reserved = 0) :
    opcodeByte w ++ byteOperand (byteField w 0) = w := by
  refine BitVec.eq_of_getLsbD_eq fun i hi => ?_
  have hi' := congrArg (·.getLsbD i) h
  simp only [BitVec.getLsbD_and, getLsbD_reserved_b] at hi'
  rw [getLsbD_word, getLsbD_byteOperand, opcodeByte, byteField, BitVec.getLsbD_extractLsb', BitVec.getLsbD_extractLsb']
  by_cases h56 : i < 56
  · by_cases h8 : 8 ≤ i
    · simp_all
    · simp [h56, show i < 8 by omega]
  · simp [h56, show i - 56 < 8 by omega, show 56 + (i - 56) = i by omega]

/-- A word with the reserved bits of format G clear is its opcode byte above a bit operand. -/
theorem word_of_reserved_g {w : Word64} (h : w &&& Format.g.reserved = 0) :
    opcodeByte w ++ bitOperand (bitField w) = w := by
  refine BitVec.eq_of_getLsbD_eq fun i hi => ?_
  have hi' := congrArg (·.getLsbD i) h
  simp only [BitVec.getLsbD_and, getLsbD_reserved_g] at hi'
  rw [getLsbD_word, getLsbD_bitOperand, opcodeByte, bitField, BitVec.getLsbD_extractLsb']
  by_cases h56 : i < 56
  · by_cases h1 : 1 ≤ i
    · simp_all
      omega
    · have : i = 0 := by omega
      subst this
      simp
  · simp [h56, show i - 56 < 8 by omega, show 56 + (i - 56) = i by omega]

/-- Every word is its opcode byte above its seven bytes. -/
theorem word_of_sevenBytes (w : Word64) :
    opcodeByte w ++ sevenBytes (byteField w 48) (byteField w 40) (byteField w 32) (byteField w 24) (byteField w 16)
      (byteField w 8) (byteField w 0) = w := by
  refine BitVec.eq_of_getLsbD_eq fun i hi => ?_
  rw [getLsbD_word, getLsbD_sevenBytes]
  simp only [opcodeByte, byteField, BitVec.getLsbD_extractLsb']
  repeat' split
  all_goals rw [show decide _ = true from decide_eq_true (by omega), Bool.true_and]; congr 1; omega

/-! ## The order of the decoder (R88) -/

theorem decode_of_unknown {w : Word64} (h : Opcode.ofByte (opcodeByte w) = none) :
    decode w = .error (.unknownOpcode (opcodeByte w)) := by simp [decode, h]

theorem decode_of_reserved {w : Word64} {op : Opcode} (h : Opcode.ofByte (opcodeByte w) = some op)
    (hr : w &&& op.format.reserved ≠ 0) : decode w = .error (.reservedBitSet op) := by
  simp only [decode, h, if_neg hr]

theorem decode_of_legal {w : Word64} {op : Opcode} (h : Opcode.ofByte (opcodeByte w) = some op)
    (hr : w &&& op.format.reserved = 0) : decode w = .ok (op.command w) := by
  simp only [decode, h, if_pos hr]

/-- What a decoded command says of its word. -/
theorem decode_ok {w : Word64} {i : Instr} (h : decode w = .ok i) :
    ∃ op : Opcode, op.byte = opcodeByte w ∧ w &&& op.format.reserved = 0 ∧ i = op.command w := by
  unfold decode at h
  split at h
  · cases h
  · next op hop =>
    split at h
    · next hr => exact ⟨op, Opcode.byte_of_ofByte hop, hr, by cases h; rfl⟩
    · cases h

end Sys2Proof
end

