-- ==== Sys2Proof/Laws/Memory.lean ====
section
/-! SUPPORT. The laws of the device register space: a read after a write, every other register alone, the canonical form
kept, and equal reads are equal data. -/

namespace Sys2Proof.Machine

open Sys2Proof

/-! ## Reading -/

@[simp] theorem Memory.read_nil (a : Nat) : Memory.read [] a = Memory.unlisted a := rfl

theorem Memory.read_cons (c : Host.Cell) (m : Memory) (a : Nat) :
    Memory.read (c :: m) a = if c.1 = a then c.2 else Memory.read m a := rfl

@[simp] theorem Memory.readRun_length (m : Memory) (a n : Nat) : (m.readRun a n).length = n := by
  induction n generalizing a with
  | zero => rfl
  | succ n ih => simp [Memory.readRun, ih]

/-- A register below every listed address is not listed. -/
theorem Memory.read_eq_unlisted {m : Memory} {a : Nat} (h : ∀ c ∈ m, a < c.1) : m.read a = Memory.unlisted a := by
  induction m with
  | nil => rfl
  | cons c m ih =>
    have hc := h c (by simp)
    rw [Memory.read_cons, if_neg (by omega)]
    exact ih fun d hd => h d (by simp [hd])

/-! ## The canonical form -/

theorem Memory.wf_iff (m : Memory) :
    m.wf = true ↔ m.Pairwise (fun c d => c.1 < d.1) ∧ ∀ c ∈ m, c.1 < regCount ∧ c.2 ≠ Memory.unlisted c.1 := by
  simp [Memory.wf]

theorem Memory.wf_nil : Memory.wf [] = true := by decide

theorem Memory.wf_tail {c : Host.Cell} {m : Memory} (h : Memory.wf (c :: m) = true) : m.wf = true := by
  rw [Memory.wf_iff] at *
  exact ⟨h.1.of_cons, fun d hd => h.2 d (by simp [hd])⟩

theorem Memory.wf_head_lt {c : Host.Cell} {m : Memory} (h : Memory.wf (c :: m) = true) : ∀ d ∈ m, c.1 < d.1 := by
  rw [Memory.wf_iff] at h
  exact fun _ => List.rel_of_pairwise_cons h.1

/-! ## Writing -/

theorem Memory.read_consCell {m : Memory} {a : Nat} (b : Byte) (h : ∀ c ∈ m, a < c.1) (x : Nat) :
    (Memory.cons a b m).read x = if x = a then b else m.read x := by
  unfold Memory.cons
  split
  · next hb =>
    split
    · next hx => rw [hx, hb]; exact Memory.read_eq_unlisted h
    · rfl
  · rw [Memory.read_cons]
    simp only [eq_comm]

/-- A write reads back, and leaves every other register alone. -/
theorem Memory.read_write {m : Memory} (h : m.wf = true) (a : Nat) (b : Byte) (x : Nat) :
    (m.write a b).read x = if x = a then b else m.read x := by
  induction m with
  | nil => exact Memory.read_consCell b (by simp) x
  | cons c m ih =>
    have hlt := Memory.wf_head_lt h
    unfold Memory.write
    split
    · next hac =>
      refine Memory.read_consCell b (fun d hd => ?_) x
      rcases List.mem_cons.1 hd with rfl | hd
      · exact hac
      · exact Nat.lt_trans hac (hlt d hd)
    · split
      · next hac =>
        subst hac
        rw [Memory.read_consCell b hlt, Memory.read_cons]
        by_cases hx : x = c.1
        · simp [hx]
        · simp [hx, Ne.symm hx]
      · next hac =>
        rw [Memory.read_cons, ih (Memory.wf_tail h), Memory.read_cons]
        by_cases hx : x = a
        · subst hx; simp [Ne.symm hac]
        · simp [hx]

theorem Memory.mem_cons_cell {a : Nat} {b : Byte} {m : Memory} {c : Host.Cell} (h : c ∈ Memory.cons a b m) :
    c ∈ m ∨ (c = (a, b) ∧ b ≠ Memory.unlisted a) := by
  unfold Memory.cons at h
  split at h
  · exact .inl h
  · next hb => rcases List.mem_cons.1 h with rfl | h
               · exact .inr ⟨rfl, hb⟩
               · exact .inl h

/-- A cell of the memory after a write was there before, or is the one written. -/
theorem Memory.mem_write {m : Memory} {a : Nat} {b : Byte} {c : Host.Cell} (h : c ∈ m.write a b) :
    c ∈ m ∨ (c = (a, b) ∧ b ≠ Memory.unlisted a) := by
  induction m with
  | nil => exact Memory.mem_cons_cell h
  | cons d m ih =>
    unfold Memory.write at h
    split at h
    · exact Memory.mem_cons_cell h
    · split at h
      · rcases Memory.mem_cons_cell h with h | h
        · exact .inl (by simp [h])
        · exact .inr h
      · rcases List.mem_cons.1 h with rfl | h
        · exact .inl (by simp)
        · rcases ih h with h | h
          · exact .inl (by simp [h])
          · exact .inr h

theorem Memory.wf_consCell {m : Memory} {a : Nat} (b : Byte) (h : m.wf = true) (ha : a < regCount)
    (hlt : ∀ c ∈ m, a < c.1) : (Memory.cons a b m).wf = true := by
  unfold Memory.cons
  split
  · exact h
  · next hb =>
    rw [Memory.wf_iff] at *
    exact ⟨List.pairwise_cons.2 ⟨hlt, h.1⟩, fun c hc => (List.mem_cons.1 hc).elim (fun e => e ▸ ⟨ha, hb⟩) (h.2 c)⟩

/-- A write to a register of the map keeps the canonical form. -/
theorem Memory.wf_write {m : Memory} (h : m.wf = true) {a : Nat} (ha : a < regCount) (b : Byte) :
    (m.write a b).wf = true := by
  induction m with
  | nil => exact Memory.wf_consCell b h ha (by simp)
  | cons c m ih =>
    have hlt := Memory.wf_head_lt h
    have hm := Memory.wf_tail h
    unfold Memory.write
    split
    · next hac =>
      refine Memory.wf_consCell b h ha fun d hd => ?_
      rcases List.mem_cons.1 hd with rfl | hd
      · exact hac
      · exact Nat.lt_trans hac (hlt d hd)
    · split
      · next hac => exact Memory.wf_consCell b hm ha (hac ▸ hlt)
      · have hw := ih hm
        rw [Memory.wf_iff] at *
        refine ⟨List.pairwise_cons.2 ⟨fun d hd => ?_, hw.1⟩, fun d hd => ?_⟩
        · rcases Memory.mem_write hd with hd | ⟨rfl, -⟩
          · exact hlt d hd
          · simp only; omega
        · rcases List.mem_cons.1 hd with rfl | hd
          · exact h.2 d (by simp)
          · exact hw.2 d hd

/-! ## Runs, and what the device changes on its own -/

theorem Memory.wf_writeRun {m : Memory} (h : m.wf = true) (a : Nat) (v : List Byte) (hv : a + v.length ≤ regCount) :
    (m.writeRun a v).wf = true := by
  induction v generalizing m a with
  | nil => exact h
  | cons b v ih =>
    simp only [List.length_cons] at hv
    exact ih (Memory.wf_write h (by omega) b) (a + 1) (by omega)

/-- A run of writes reads back, and leaves every register outside the run alone. -/
theorem Memory.read_writeRun {m : Memory} (h : m.wf = true) (a : Nat) (v : List Byte) (hv : a + v.length ≤ regCount)
    (x : Nat) : (m.writeRun a v).read x = if a ≤ x ∧ x < a + v.length then v.getD (x - a) 0 else m.read x := by
  induction v generalizing m a with
  | nil => rw [Memory.writeRun, if_neg (by simp)]
  | cons b v ih =>
    simp only [List.length_cons] at hv
    rw [Memory.writeRun, ih (Memory.wf_write h (by omega) b) (a + 1) (by omega), Memory.read_write h]
    simp only [List.length_cons]
    by_cases hx : x = a
    · subst hx; simp
    · by_cases hi : a + 1 ≤ x ∧ x < a + 1 + v.length
      · rw [if_pos hi, if_pos (by omega), show x - a = (x - (a + 1)) + 1 by omega, List.getD_cons_succ]
      · rw [if_neg hi, if_neg hx, if_neg (by omega)]

theorem Memory.wf_own {m : Memory} (h : m.wf = true) (cs : List (Fin regCount × Byte)) : (m.own cs).wf = true := by
  induction cs generalizing m with
  | nil => exact h
  | cons c cs ih => exact ih (Memory.wf_write h c.1.isLt c.2)

@[simp] theorem Memory.own_nil (m : Memory) : m.own [] = m := rfl

/-- A register the device does not change on its own reads as before. -/
theorem Memory.read_own {m : Memory} (h : m.wf = true) (cs : List (Fin regCount × Byte)) (a : Nat)
    (ha : ∀ c ∈ cs, c.1.val ≠ a) : (m.own cs).read a = m.read a := by
  induction cs generalizing m with
  | nil => rfl
  | cons c cs ih =>
    rw [Memory.own, ih (Memory.wf_write h c.1.isLt c.2) fun d hd => ha d (by simp [hd]), Memory.read_write h,
      if_neg (Ne.symm (ha c (by simp)))]

/-! ## Canonical -/

/-- Two memories in canonical form that read alike everywhere are the same data. -/
theorem Memory.ext_of_wf {m m' : Memory} (h : m.wf = true) (h' : m'.wf = true) (hr : ∀ a, m.read a = m'.read a) :
    m = m' := by
  induction m generalizing m' with
  | nil =>
    cases m' with
    | nil => rfl
    | cons c m' =>
      have := hr c.1
      rw [Memory.read_cons, if_pos rfl] at this
      exact absurd this.symm ((Memory.wf_iff _).1 h' |>.2 c (by simp)).2
  | cons c m ih =>
    cases m' with
    | nil =>
      have := hr c.1
      rw [Memory.read_cons, if_pos rfl] at this
      exact absurd this ((Memory.wf_iff _).1 h |>.2 c (by simp)).2
    | cons d m' =>
      have hc := ((Memory.wf_iff _).1 h).2 c (by simp)
      have hd := ((Memory.wf_iff _).1 h').2 d (by simp)
      have hcm := Memory.wf_head_lt h
      have hdm := Memory.wf_head_lt h'
      have key : c.1 = d.1 := by
        rcases Nat.lt_trichotomy c.1 d.1 with hlt | he | hgt
        · have := hr c.1
          rw [Memory.read_cons, if_pos rfl, Memory.read_eq_unlisted (m := d :: m')] at this
          · exact absurd this hc.2
          · intro e he
            rcases List.mem_cons.1 he with rfl | he
            · exact hlt
            · exact Nat.lt_trans hlt (hdm e he)
        · exact he
        · have := hr d.1
          rw [Memory.read_eq_unlisted (m := c :: m), Memory.read_cons, if_pos rfl] at this
          · exact absurd this.symm hd.2
          · intro e he
            rcases List.mem_cons.1 he with rfl | he
            · exact hgt
            · exact Nat.lt_trans hgt (hcm e he)
      have hval : c.2 = d.2 := by
        have := hr c.1
        rwa [Memory.read_cons, if_pos rfl, Memory.read_cons, if_pos key.symm] at this
      have htail : m = m' := by
        refine ih (Memory.wf_tail h) (Memory.wf_tail h') fun a => ?_
        by_cases ha : c.1 = a
        · rw [Memory.read_eq_unlisted fun e he => ha ▸ hcm e he,
            Memory.read_eq_unlisted fun e he => ha ▸ key ▸ hdm e he]
        · have := hr a
          rwa [Memory.read_cons, if_neg ha, Memory.read_cons, if_neg (key ▸ ha)] at this
      rw [htail, Prod.ext key hval]

end Sys2Proof.Machine
end

