-- ==== Sys2Proof/Laws/State.lean ====
section
/-! SUPPORT. One lemma per field per update of the state, so that no later proof unfolds a record update. -/

namespace Sys2Proof.Machine

open Sys2Proof

/-! ## `setLatch` -/

@[simp] theorem State.setLatch_phase (s : State) (b : Byte) : (s.setLatch b).phase = s.phase := rfl
@[simp] theorem State.setLatch_cw (s : State) (b : Byte) : (s.setLatch b).cw = s.cw := rfl
@[simp] theorem State.setLatch_latch (s : State) (b : Byte) : (s.setLatch b).latch = b := rfl
@[simp] theorem State.setLatch_rbuf (s : State) (b : Byte) : (s.setLatch b).rbuf = s.rbuf := rfl
@[simp] theorem State.setLatch_wbuf (s : State) (b : Byte) : (s.setLatch b).wbuf = s.wbuf := rfl
@[simp] theorem State.setLatch_response (s : State) (b : Byte) : (s.setLatch b).response = s.response := rfl
@[simp] theorem State.setLatch_resetDue (s : State) (b : Byte) : (s.setLatch b).resetDue = s.resetDue := rfl
@[simp] theorem State.setLatch_host (s : State) (b : Byte) : (s.setLatch b).host = s.host := rfl
@[simp] theorem State.setLatch_mem (s : State) (b : Byte) : (s.setLatch b).mem = s.mem := rfl
@[simp] theorem State.setLatch_script (s : State) (b : Byte) : (s.setLatch b).script = s.script := rfl
@[simp] theorem State.setLatch_rest (s : State) (b : Byte) : (s.setLatch b).rest = s.rest := rfl
@[simp] theorem State.setLatch_draws (s : State) (b : Byte) : (s.setLatch b).draws = s.draws := rfl
@[simp] theorem State.setLatch_bus (s : State) (b : Byte) : (s.setLatch b).bus = s.bus := rfl
@[simp] theorem State.setLatch_masks (s : State) (b : Byte) : (s.setLatch b).masks = s.masks := rfl

/-! ## `setRbuf` -/

@[simp] theorem State.setRbuf_phase (s : State) (v : List Byte) : (s.setRbuf v).phase = s.phase := rfl
@[simp] theorem State.setRbuf_cw (s : State) (v : List Byte) : (s.setRbuf v).cw = s.cw := rfl
@[simp] theorem State.setRbuf_latch (s : State) (v : List Byte) : (s.setRbuf v).latch = s.latch := rfl
@[simp] theorem State.setRbuf_rbuf (s : State) (v : List Byte) : (s.setRbuf v).rbuf = overlay v s.rbuf := rfl
@[simp] theorem State.setRbuf_wbuf (s : State) (v : List Byte) : (s.setRbuf v).wbuf = s.wbuf := rfl
@[simp] theorem State.setRbuf_response (s : State) (v : List Byte) : (s.setRbuf v).response = s.response := rfl
@[simp] theorem State.setRbuf_resetDue (s : State) (v : List Byte) : (s.setRbuf v).resetDue = s.resetDue := rfl
@[simp] theorem State.setRbuf_host (s : State) (v : List Byte) : (s.setRbuf v).host = s.host := rfl
@[simp] theorem State.setRbuf_mem (s : State) (v : List Byte) : (s.setRbuf v).mem = s.mem := rfl
@[simp] theorem State.setRbuf_script (s : State) (v : List Byte) : (s.setRbuf v).script = s.script := rfl
@[simp] theorem State.setRbuf_rest (s : State) (v : List Byte) : (s.setRbuf v).rest = s.rest := rfl
@[simp] theorem State.setRbuf_draws (s : State) (v : List Byte) : (s.setRbuf v).draws = s.draws := rfl
@[simp] theorem State.setRbuf_bus (s : State) (v : List Byte) : (s.setRbuf v).bus = s.bus := rfl
@[simp] theorem State.setRbuf_masks (s : State) (v : List Byte) : (s.setRbuf v).masks = s.masks := rfl

/-! ## `takeTurn` -/

@[simp] theorem State.takeTurn_phase (s : State) : s.takeTurn.phase = s.phase := rfl
@[simp] theorem State.takeTurn_cw (s : State) : s.takeTurn.cw = s.cw := rfl
@[simp] theorem State.takeTurn_latch (s : State) : s.takeTurn.latch = s.latch := rfl
@[simp] theorem State.takeTurn_rbuf (s : State) : s.takeTurn.rbuf = s.rbuf := rfl
@[simp] theorem State.takeTurn_wbuf (s : State) : s.takeTurn.wbuf = s.wbuf := rfl
@[simp] theorem State.takeTurn_response (s : State) : s.takeTurn.response = s.response := rfl
@[simp] theorem State.takeTurn_resetDue (s : State) : s.takeTurn.resetDue = s.resetDue := rfl
@[simp] theorem State.takeTurn_host (s : State) : s.takeTurn.host = s.host := rfl
@[simp] theorem State.takeTurn_mem (s : State) : s.takeTurn.mem = s.mem := rfl
@[simp] theorem State.takeTurn_script (s : State) : s.takeTurn.script = s.script.tail := rfl
@[simp] theorem State.takeTurn_rest (s : State) : s.takeTurn.rest = s.rest := rfl
@[simp] theorem State.takeTurn_draws (s : State) : s.takeTurn.draws = if s.script.isEmpty then s.draws + 1 else s.draws := rfl
@[simp] theorem State.takeTurn_bus (s : State) : s.takeTurn.bus = s.bus := rfl
@[simp] theorem State.takeTurn_masks (s : State) : s.takeTurn.masks = s.masks := rfl

/-! ## `completed` -/

@[simp] theorem State.completed_phase (s : State) (x : Transaction) (dev : Memory) : (s.completed x dev).phase = .running (s.issued + 1) := rfl
@[simp] theorem State.completed_cw (s : State) (x : Transaction) (dev : Memory) : (s.completed x dev).cw = s.cw := rfl
@[simp] theorem State.completed_latch (s : State) (x : Transaction) (dev : Memory) : (s.completed x dev).latch = s.latch := rfl
@[simp] theorem State.completed_rbuf (s : State) (x : Transaction) (dev : Memory) : (s.completed x dev).rbuf = s.rbuf := rfl
@[simp] theorem State.completed_wbuf (s : State) (x : Transaction) (dev : Memory) : (s.completed x dev).wbuf = s.wbuf := rfl
@[simp] theorem State.completed_response (s : State) (x : Transaction) (dev : Memory) : (s.completed x dev).response = s.response := rfl
@[simp] theorem State.completed_resetDue (s : State) (x : Transaction) (dev : Memory) : (s.completed x dev).resetDue = s.resetDue := rfl
@[simp] theorem State.completed_host (s : State) (x : Transaction) (dev : Memory) : (s.completed x dev).host = s.host := rfl
@[simp] theorem State.completed_mem (s : State) (x : Transaction) (dev : Memory) : (s.completed x dev).mem = dev := rfl
@[simp] theorem State.completed_script (s : State) (x : Transaction) (dev : Memory) : (s.completed x dev).script = s.script.tail := rfl
@[simp] theorem State.completed_rest (s : State) (x : Transaction) (dev : Memory) : (s.completed x dev).rest = s.rest := rfl
@[simp] theorem State.completed_draws (s : State) (x : Transaction) (dev : Memory) : (s.completed x dev).draws = if s.script.isEmpty then s.draws + 1 else s.draws := rfl
@[simp] theorem State.completed_bus (s : State) (x : Transaction) (dev : Memory) : (s.completed x dev).bus = s.bus ++ [x] := rfl
@[simp] theorem State.completed_masks (s : State) (x : Transaction) (dev : Memory) : (s.completed x dev).masks = s.masks := rfl

/-! ## `blockReset` -/

@[simp] theorem State.blockReset_phase (s : State) : s.blockReset.phase = .idle := rfl
@[simp] theorem State.blockReset_cw (s : State) : s.blockReset.cw = 0 := rfl
@[simp] theorem State.blockReset_latch (s : State) : s.blockReset.latch = 0 := rfl
@[simp] theorem State.blockReset_rbuf (s : State) : s.blockReset.rbuf = Vector.replicate 7 0 := rfl
@[simp] theorem State.blockReset_wbuf (s : State) : s.blockReset.wbuf = Vector.replicate 8 0 := rfl
@[simp] theorem State.blockReset_response (s : State) : s.blockReset.response = none := rfl
@[simp] theorem State.blockReset_resetDue (s : State) : s.blockReset.resetDue = none := rfl
@[simp] theorem State.blockReset_host (s : State) : s.blockReset.host = s.host := rfl
@[simp] theorem State.blockReset_mem (s : State) : s.blockReset.mem = s.mem := rfl
@[simp] theorem State.blockReset_script (s : State) : s.blockReset.script = s.script := rfl
@[simp] theorem State.blockReset_rest (s : State) : s.blockReset.rest = s.rest := rfl
@[simp] theorem State.blockReset_draws (s : State) : s.blockReset.draws = s.draws := rfl
@[simp] theorem State.blockReset_bus (s : State) : s.blockReset.bus = s.bus := rfl
@[simp] theorem State.blockReset_masks (s : State) : s.blockReset.masks = s.masks := rfl

/-! ## `accept` -/

@[simp] theorem State.accept_phase (s : State) (w : Word64) (r : Option Nat) : (s.accept w r).phase = .running 0 := rfl
@[simp] theorem State.accept_cw (s : State) (w : Word64) (r : Option Nat) : (s.accept w r).cw = w := rfl
@[simp] theorem State.accept_latch (s : State) (w : Word64) (r : Option Nat) : (s.accept w r).latch = s.latch := rfl
@[simp] theorem State.accept_rbuf (s : State) (w : Word64) (r : Option Nat) : (s.accept w r).rbuf = s.rbuf := rfl
@[simp] theorem State.accept_wbuf (s : State) (w : Word64) (r : Option Nat) : (s.accept w r).wbuf = s.wbuf := rfl
@[simp] theorem State.accept_response (s : State) (w : Word64) (r : Option Nat) : (s.accept w r).response = none := rfl
@[simp] theorem State.accept_resetDue (s : State) (w : Word64) (r : Option Nat) : (s.accept w r).resetDue = r := rfl
@[simp] theorem State.accept_host (s : State) (w : Word64) (r : Option Nat) : (s.accept w r).host = s.host := rfl
@[simp] theorem State.accept_mem (s : State) (w : Word64) (r : Option Nat) : (s.accept w r).mem = s.mem := rfl
@[simp] theorem State.accept_script (s : State) (w : Word64) (r : Option Nat) : (s.accept w r).script = s.script := rfl
@[simp] theorem State.accept_rest (s : State) (w : Word64) (r : Option Nat) : (s.accept w r).rest = s.rest := rfl
@[simp] theorem State.accept_draws (s : State) (w : Word64) (r : Option Nat) : (s.accept w r).draws = s.draws := rfl
@[simp] theorem State.accept_bus (s : State) (w : Word64) (r : Option Nat) : (s.accept w r).bus = s.bus := rfl
@[simp] theorem State.accept_masks (s : State) (w : Word64) (r : Option Nat) : (s.accept w r).masks = s.masks := rfl

/-! ## `popHost` -/

@[simp] theorem State.popHost_phase (s : State) : s.popHost.phase = s.phase := rfl
@[simp] theorem State.popHost_cw (s : State) : s.popHost.cw = s.cw := rfl
@[simp] theorem State.popHost_latch (s : State) : s.popHost.latch = s.latch := rfl
@[simp] theorem State.popHost_rbuf (s : State) : s.popHost.rbuf = s.rbuf := rfl
@[simp] theorem State.popHost_wbuf (s : State) : s.popHost.wbuf = s.wbuf := rfl
@[simp] theorem State.popHost_response (s : State) : s.popHost.response = s.response := rfl
@[simp] theorem State.popHost_resetDue (s : State) : s.popHost.resetDue = s.resetDue := rfl
@[simp] theorem State.popHost_host (s : State) : s.popHost.host = s.host.tail := rfl
@[simp] theorem State.popHost_mem (s : State) : s.popHost.mem = s.mem := rfl
@[simp] theorem State.popHost_script (s : State) : s.popHost.script = s.script := rfl
@[simp] theorem State.popHost_rest (s : State) : s.popHost.rest = s.rest := rfl
@[simp] theorem State.popHost_draws (s : State) : s.popHost.draws = s.draws := rfl
@[simp] theorem State.popHost_bus (s : State) : s.popHost.bus = s.bus := rfl
@[simp] theorem State.popHost_masks (s : State) : s.popHost.masks = s.masks := rfl

/-! ## `present` -/

@[simp] theorem State.present_phase (s : State) (w : Word64) : (s.present w).phase = .idle := rfl
@[simp] theorem State.present_cw (s : State) (w : Word64) : (s.present w).cw = s.cw := rfl
@[simp] theorem State.present_latch (s : State) (w : Word64) : (s.present w).latch = s.latch := rfl
@[simp] theorem State.present_rbuf (s : State) (w : Word64) : (s.present w).rbuf = s.rbuf := rfl
@[simp] theorem State.present_wbuf (s : State) (w : Word64) : (s.present w).wbuf = s.wbuf := rfl
@[simp] theorem State.present_response (s : State) (w : Word64) : (s.present w).response = s.response := rfl
@[simp] theorem State.present_resetDue (s : State) (w : Word64) : (s.present w).resetDue = s.resetDue := rfl
@[simp] theorem State.present_host (s : State) (w : Word64) : (s.present w).host = .command w none :: s.host := rfl
@[simp] theorem State.present_mem (s : State) (w : Word64) : (s.present w).mem = s.mem := rfl
@[simp] theorem State.present_script (s : State) (w : Word64) : (s.present w).script = s.script := rfl
@[simp] theorem State.present_rest (s : State) (w : Word64) : (s.present w).rest = s.rest := rfl
@[simp] theorem State.present_draws (s : State) (w : Word64) : (s.present w).draws = s.draws := rfl
@[simp] theorem State.present_bus (s : State) (w : Word64) : (s.present w).bus = s.bus := rfl
@[simp] theorem State.present_masks (s : State) (w : Word64) : (s.present w).masks = s.masks := rfl

/-! ## `setWbuf` -/

@[simp] theorem State.setWbuf_phase (s : State) (v : List Byte) : (s.setWbuf v).phase = s.phase := rfl
@[simp] theorem State.setWbuf_cw (s : State) (v : List Byte) : (s.setWbuf v).cw = s.cw := rfl
@[simp] theorem State.setWbuf_latch (s : State) (v : List Byte) : (s.setWbuf v).latch = s.latch := rfl
@[simp] theorem State.setWbuf_rbuf (s : State) (v : List Byte) : (s.setWbuf v).rbuf = s.rbuf := rfl
@[simp] theorem State.setWbuf_wbuf (s : State) (v : List Byte) : (s.setWbuf v).wbuf = overlay v s.wbuf := rfl
@[simp] theorem State.setWbuf_response (s : State) (v : List Byte) : (s.setWbuf v).response = s.response := rfl
@[simp] theorem State.setWbuf_resetDue (s : State) (v : List Byte) : (s.setWbuf v).resetDue = s.resetDue := rfl
@[simp] theorem State.setWbuf_host (s : State) (v : List Byte) : (s.setWbuf v).host = s.host := rfl
@[simp] theorem State.setWbuf_mem (s : State) (v : List Byte) : (s.setWbuf v).mem = s.mem := rfl
@[simp] theorem State.setWbuf_script (s : State) (v : List Byte) : (s.setWbuf v).script = s.script := rfl
@[simp] theorem State.setWbuf_rest (s : State) (v : List Byte) : (s.setWbuf v).rest = s.rest := rfl
@[simp] theorem State.setWbuf_draws (s : State) (v : List Byte) : (s.setWbuf v).draws = s.draws := rfl
@[simp] theorem State.setWbuf_bus (s : State) (v : List Byte) : (s.setWbuf v).bus = s.bus := rfl
@[simp] theorem State.setWbuf_masks (s : State) (v : List Byte) : (s.setWbuf v).masks = s.masks := rfl

/-! ## `draw` -/

@[simp] theorem State.draw_phase (s : State) : s.draw.phase = s.phase := rfl
@[simp] theorem State.draw_cw (s : State) : s.draw.cw = s.cw := rfl
@[simp] theorem State.draw_latch (s : State) : s.draw.latch = s.latch := rfl
@[simp] theorem State.draw_rbuf (s : State) : s.draw.rbuf = s.rbuf := rfl
@[simp] theorem State.draw_wbuf (s : State) : s.draw.wbuf = s.wbuf := rfl
@[simp] theorem State.draw_response (s : State) : s.draw.response = s.response := rfl
@[simp] theorem State.draw_resetDue (s : State) : s.draw.resetDue = s.resetDue := rfl
@[simp] theorem State.draw_host (s : State) : s.draw.host = s.host := rfl
@[simp] theorem State.draw_mem (s : State) : s.draw.mem = s.mem := rfl
@[simp] theorem State.draw_script (s : State) : s.draw.script = s.script := rfl
@[simp] theorem State.draw_rest (s : State) : s.draw.rest = s.rest := rfl
@[simp] theorem State.draw_draws (s : State) : s.draw.draws = s.draws + 1 := rfl
@[simp] theorem State.draw_bus (s : State) : s.draw.bus = s.bus := rfl
@[simp] theorem State.draw_masks (s : State) : s.draw.masks = s.masks := rfl

/-! ## `answer` -/

@[simp] theorem State.answer_phase (s : State) (c : ResultCode) (p : Field56) : (s.answer c p).phase = .idle := rfl
@[simp] theorem State.answer_cw (s : State) (c : ResultCode) (p : Field56) : (s.answer c p).cw = s.cw := rfl
@[simp] theorem State.answer_latch (s : State) (c : ResultCode) (p : Field56) : (s.answer c p).latch = s.latch := rfl
@[simp] theorem State.answer_rbuf (s : State) (c : ResultCode) (p : Field56) : (s.answer c p).rbuf = s.rbuf := rfl
@[simp] theorem State.answer_wbuf (s : State) (c : ResultCode) (p : Field56) : (s.answer c p).wbuf = s.wbuf := rfl
@[simp] theorem State.answer_response (s : State) (c : ResultCode) (p : Field56) : (s.answer c p).response = some { code := c, payload := p } := rfl
@[simp] theorem State.answer_resetDue (s : State) (c : ResultCode) (p : Field56) : (s.answer c p).resetDue = none := rfl
@[simp] theorem State.answer_host (s : State) (c : ResultCode) (p : Field56) : (s.answer c p).host = s.host := rfl
@[simp] theorem State.answer_mem (s : State) (c : ResultCode) (p : Field56) : (s.answer c p).mem = s.mem := rfl
@[simp] theorem State.answer_script (s : State) (c : ResultCode) (p : Field56) : (s.answer c p).script = s.script := rfl
@[simp] theorem State.answer_rest (s : State) (c : ResultCode) (p : Field56) : (s.answer c p).rest = s.rest := rfl
@[simp] theorem State.answer_draws (s : State) (c : ResultCode) (p : Field56) : (s.answer c p).draws = s.draws := rfl
@[simp] theorem State.answer_bus (s : State) (c : ResultCode) (p : Field56) : (s.answer c p).bus = s.bus := rfl
@[simp] theorem State.answer_masks (s : State) (c : ResultCode) (p : Field56) : (s.answer c p).masks = s.masks := rfl

/-! ## Positions -/

@[simp] theorem State.setLatch_issued (s : State) (b : Byte) : (s.setLatch b).issued = s.issued := rfl
@[simp] theorem State.setRbuf_issued (s : State) (v : List Byte) : (s.setRbuf v).issued = s.issued := rfl
@[simp] theorem State.setWbuf_issued (s : State) (v : List Byte) : (s.setWbuf v).issued = s.issued := rfl
@[simp] theorem State.draw_issued (s : State) : s.draw.issued = s.issued := rfl
@[simp] theorem State.setWbuf_turnAt (s : State) (v : List Byte) (k : Nat) : (s.setWbuf v).turnAt k = s.turnAt k := rfl
@[simp] theorem State.answer_code (s : State) (c : ResultCode) (p : Field56) :
    (s.answer c p).response.map Response.code = some c := rfl
@[simp] theorem State.completed_issued (s : State) (x : Transaction) (dev : Memory) :
    (s.completed x dev).issued = s.issued + 1 := rfl
@[simp] theorem State.accept_issued (s : State) (w : Word64) (r : Option Nat) : (s.accept w r).issued = 0 := rfl
@[simp] theorem State.setLatch_turnAt (s : State) (b : Byte) (k : Nat) : (s.setLatch b).turnAt k = s.turnAt k := rfl
@[simp] theorem State.setRbuf_turnAt (s : State) (v : List Byte) (k : Nat) : (s.setRbuf v).turnAt k = s.turnAt k := rfl
@[simp] theorem State.accept_turnAt (s : State) (w : Word64) (r : Option Nat) (k : Nat) :
    (s.accept w r).turnAt k = s.turnAt k := rfl
@[simp] theorem State.popHost_turnAt (s : State) (k : Nat) : s.popHost.turnAt k = s.turnAt k := rfl

/-- After a transaction the environment's turns have moved on by one. -/
theorem State.takeTurn_turnAt (s : State) (k : Nat) : s.takeTurn.turnAt k = s.turnAt (k + 1) := by
  unfold State.turnAt State.takeTurn
  rcases h : s.script with _ | ⟨t, ts⟩
  · simp only [List.tail_nil, List.getElem?_nil, List.isEmpty_nil, if_true, List.length_nil, Nat.sub_zero]
    rw [Nat.add_right_comm, Nat.add_assoc]
  · simp only [List.tail_cons, List.getElem?_cons_succ, List.isEmpty_cons, List.length_cons, Nat.add_sub_add_right]
    rfl

@[simp] theorem State.completed_turnAt (s : State) (x : Transaction) (dev : Memory) (k : Nat) :
    (s.completed x dev).turnAt k = s.turnAt (k + 1) := State.takeTurn_turnAt s k

/-- With no reset to come, none arrives. -/
theorem State.resetNow_of_none {s : State} (h : s.resetDue = none) : s.resetNow = false := by
  unfold State.resetNow; rw [h]; rfl

end Sys2Proof.Machine
end

