-- ==== Sys2Proof/Laws/Ops.lean ====
section
/-! SUPPORT. What each shared operation can do, said once: an equation for each way it can go, and an inversion lemma that
names them all. Later proofs cite these and unfold nothing. -/

namespace Sys2Proof.Machine

open Sys2Proof

variable {s : State} {Q : State → Prop}

/-! ## Ending a command -/

theorem State.finish_of_none (h : s.resetDue = none) (c : ResultCode) (p : Field56) : s.finish c p = s.answer c p := by
  simp [State.finish, State.resetNow_of_none h]

theorem State.respond_of_none (h : s.resetDue = none) (p : Field56) : s.respond p = s.answer .success p :=
  State.finish_of_none h _ p

theorem State.raise_of_none (h : s.resetDue = none) (c : ResultCode) :
    s.raise c = s.draw.answer c (Config.freePayload s.draws) := State.finish_of_none (s := s.draw) h c _

/-- `return` either answers `SUCCESS` or meets the reset. -/
theorem State.respond_cases (p : Field56) (reset : s.resetNow = true → Q s.blockReset)
    (done : s.resetNow = false → Q (s.answer .success p)) : Q (s.respond p) := by
  unfold State.respond State.finish
  split
  · next h => exact reset h
  · next h => exact done (by simpa using h)

/-- `raise` either answers the code with some payload or meets the reset. -/
theorem State.raise_cases (c : ResultCode) (reset : s.resetNow = true → Q s.draw.blockReset)
    (done : s.resetNow = false → Q (s.draw.answer c (Config.freePayload s.draws))) : Q (s.raise c) := by
  unfold State.raise State.finish
  split
  · next h => exact reset h
  · next h => exact done (Bool.eq_false_iff.2 h)

/-! ## `MemRead` -/

/-- The device when the next transaction reaches it. -/
abbrev State.devNow (s : State) : Memory := s.mem.own (s.turnAt 0).before

theorem memRead_of_reset (r : Access) (h : s.resetNow = true) : memRead r s = .abandoned s.blockReset := by
  simp [memRead, h]

theorem memRead_of_ok (r : Access) (h : s.resetNow = false) (ok : (s.turnAt 0).status = .ok) :
    memRead r s = .ok (s.devNow.readRun r.addr r.len)
      (s.completed (.read r.addr r.len .ok (s.devNow.readRun r.addr r.len)) (s.devNow.own (s.turnAt 0).after)) := by
  simp [memRead, h, ok]

theorem memRead_of_failed (r : Access) (h : s.resetNow = false) {f : TransportFailure}
    (hf : (s.turnAt 0).status = .failed f) :
    memRead r s = .failed f (s.completed (.read r.addr r.len (.failed f) []) s.devNow) := by
  simp [memRead, h, hf]

/-- Everything a read and what follows it can do. -/
theorem memRead_cases (r : Access) (code : TransportFailure → ResultCode) (k : List Byte → State → State)
    (reset : s.resetNow = true → Q s.blockReset)
    (failed : ∀ f, s.resetNow = false → (s.turnAt 0).status = .failed f →
      Q ((s.completed (.read r.addr r.len (.failed f) []) s.devNow).raise (code f)))
    (ok : s.resetNow = false → (s.turnAt 0).status = .ok →
      Q (k (s.devNow.readRun r.addr r.len)
        (s.completed (.read r.addr r.len .ok (s.devNow.readRun r.addr r.len)) (s.devNow.own (s.turnAt 0).after)))) :
    Q ((memRead r s).andThen code k) := by
  rcases hr : s.resetNow with _ | _
  · rcases hs : (s.turnAt 0).status with _ | f
    · rw [memRead_of_ok r hr hs]; exact ok hr hs
    · rw [memRead_of_failed r hr hs]; exact failed f hr hs
  · rw [memRead_of_reset r hr]; exact reset hr

/-! ## `MemWrite` -/

/-- The buffer of a write: the register address, then the values (R55). -/
abbrev writeBuffer (r : Access) (v : List Byte) : List Byte := BitVec.ofNat 8 r.addr :: v

theorem memWrite_of_reset (r : Access) (v : List Byte) (h : s.resetNow = true) :
    memWrite r v s = .abandoned s.blockReset := by
  simp [memWrite, h]

theorem memWrite_of_ok (r : Access) (v : List Byte) (h : s.resetNow = false) (ok : (s.turnAt 0).status = .ok) :
    memWrite r v s = .ok [] ((s.setWbuf (writeBuffer r v)).completed (.write (writeBuffer r v) (v.length + 1) .ok)
      ((s.devNow.writeRun r.addr v).own (s.turnAt 0).after)) := by
  simp [memWrite, h, ok]

theorem memWrite_of_failed (r : Access) (v : List Byte) (h : s.resetNow = false) {f : TransportFailure}
    (hf : (s.turnAt 0).status = .failed f) :
    memWrite r v s = .failed f
      ((s.setWbuf (writeBuffer r v)).completed (.write (writeBuffer r v) (v.length + 1) (.failed f)) s.devNow) := by
  simp [memWrite, h, hf]

/-- Everything a write and what follows it can do. -/
theorem memWrite_cases (r : Access) (v : List Byte) (code : TransportFailure → ResultCode)
    (k : List Byte → State → State) (reset : s.resetNow = true → Q s.blockReset)
    (failed : ∀ f, s.resetNow = false → (s.turnAt 0).status = .failed f →
      Q (((s.setWbuf (writeBuffer r v)).completed (.write (writeBuffer r v) (v.length + 1) (.failed f)) s.devNow).raise
        (code f)))
    (ok : s.resetNow = false → (s.turnAt 0).status = .ok →
      Q (k [] ((s.setWbuf (writeBuffer r v)).completed (.write (writeBuffer r v) (v.length + 1) .ok)
        ((s.devNow.writeRun r.addr v).own (s.turnAt 0).after)))) :
    Q ((memWrite r v s).andThen code k) := by
  rcases hr : s.resetNow with _ | _
  · rcases hs : (s.turnAt 0).status with _ | f
    · rw [memWrite_of_ok r v hr hs]; exact ok hr hs
    · rw [memWrite_of_failed r v hr hs]; exact failed f hr hs
  · rw [memWrite_of_reset r v hr]; exact reset hr

/-! ## One-register reads -/

/-- A one-register run is one byte. -/
theorem readRun_one (m : Memory) {r : Access} (h : r.len = 1) : m.readRun r.addr r.len = [m.read r.addr] := by
  rw [h]; rfl

/-- Everything a one-register read and what follows it can do. -/
theorem readByte_cases {r : Access} (hl : r.len = 1) (k : Byte → State → State)
    (reset : s.resetNow = true → Q s.blockReset)
    (failed : ∀ f, s.resetNow = false → (s.turnAt 0).status = .failed f →
      Q ((s.completed (.read r.addr 1 (.failed f) []) s.devNow).raise (propagate f)))
    (ok : s.resetNow = false → (s.turnAt 0).status = .ok →
      Q (k (s.devNow.read r.addr)
        (s.completed (.read r.addr 1 .ok [s.devNow.read r.addr]) (s.devNow.own (s.turnAt 0).after)))) :
    Q (readByte r s k) := by
  refine memRead_cases r propagate _ reset ?_ ?_
  · intro f; rw [hl]; exact failed f
  · rw [readRun_one _ hl, hl]; exact ok

/-- Everything a write and what follows it can do, for the commands that propagate. -/
theorem writeBytes_cases (r : Access) (v : List Byte) (k : State → State)
    (reset : s.resetNow = true → Q s.blockReset)
    (failed : ∀ f, s.resetNow = false → (s.turnAt 0).status = .failed f →
      Q (((s.setWbuf (writeBuffer r v)).completed (.write (writeBuffer r v) (v.length + 1) (.failed f)) s.devNow).raise
        (propagate f)))
    (ok : s.resetNow = false → (s.turnAt 0).status = .ok →
      Q (k ((s.setWbuf (writeBuffer r v)).completed (.write (writeBuffer r v) (v.length + 1) .ok)
        ((s.devNow.writeRun r.addr v).own (s.turnAt 0).after)))) :
    Q (writeBytes r v s k) := memWrite_cases r v propagate _ reset failed ok

/-- Everything the read-modify-write engine can do. -/
theorem readModifyWrite_cases {r : Access} (hl : r.len = 1) (edit : Byte → Byte)
    (reset : s.resetNow = true → Q s.blockReset)
    (readFailed : ∀ f, s.resetNow = false → (s.turnAt 0).status = .failed f →
      Q ((s.completed (.read r.addr 1 (.failed f) []) s.devNow).raise (propagate f)))
    (write : s.resetNow = false → (s.turnAt 0).status = .ok →
      Q (writeBytes r [edit (s.devNow.read r.addr)]
        ((s.completed (.read r.addr 1 .ok [s.devNow.read r.addr]) (s.devNow.own (s.turnAt 0).after)).setLatch
          (s.devNow.read r.addr)) fun s => s.respond 0)) :
    Q (readModifyWrite r edit s) := readByte_cases hl _ reset readFailed write

/-! ## The environment -/

/-- With no script and nothing but the MOCK device left, every turn is the MOCK device's. -/
theorem State.mock_turnAt (hs : s.script = []) (hr : s.rest = .mock) (k : Nat) : s.turnAt k = Turn.mock := by
  simp [State.turnAt, hs, hr]

end Sys2Proof.Machine
end

