-- ==== Sys2Proof/Laws/Exec.lean ====
section
/-! SUPPORT. What a command can do, said once over all of them: a command always gives a next state, and a property that the
shared operations keep is kept by every command. -/

namespace Sys2Proof.Machine

open Sys2Proof

/-- No command faults and none is refused. -/
theorem exec_next (i : Instr) (s : State) : ∃ t, exec i s = .next t := by
  cases i <;> exact ⟨_, rfl⟩

/-- The closure conditions under which a property `P` of the states inside a command gives `Q` at its end. -/
structure CommandClosed (P Q : State → Prop) : Prop where
  setLatch : ∀ s b, P s → P (s.setLatch b)
  setRbuf : ∀ s v, P s → P (s.setRbuf v)
  readOk : ∀ (s : State) (r : Access), P s → s.resetNow = false → (s.turnAt 0).status = .ok →
    P (s.completed (.read r.addr r.len .ok (s.devNow.readRun r.addr r.len)) (s.devNow.own (s.turnAt 0).after))
  writeOk : ∀ (s : State) (r : Access) (v : List Byte), P s → r ≠ .temp → v.length = r.len → s.resetNow = false →
    (s.turnAt 0).status = .ok →
    P ((s.setWbuf (writeBuffer r v)).completed (.write (writeBuffer r v) (v.length + 1) .ok)
      ((s.devNow.writeRun r.addr v).own (s.turnAt 0).after))
  readFailed : ∀ (s : State) (r : Access) (f : TransportFailure) (c : ResultCode), P s →
    c ∈ [ResultCode.error, .timeout, .busy] → s.resetNow = false → (s.turnAt 0).status = .failed f →
    Q ((s.completed (.read r.addr r.len (.failed f) []) s.devNow).raise c)
  writeFailed : ∀ (s : State) (r : Access) (v : List Byte) (f : TransportFailure) (c : ResultCode), P s → r ≠ .temp →
    v.length = r.len → c ∈ [ResultCode.error, .timeout, .busy] → s.resetNow = false →
    (s.turnAt 0).status = .failed f →
    Q (((s.setWbuf (writeBuffer r v)).completed (.write (writeBuffer r v) (v.length + 1) (.failed f)) s.devNow).raise c)
  respond : ∀ (s : State) (p : Field56), P s → Q (s.respond p)
  respondDrawn : ∀ (s : State) (p : Field56), P s → Q (s.draw.respond p)
  invalid : ∀ s : State, P s → Q (s.raise .invalidParam)
  reset : ∀ s : State, P s → s.resetNow = true → Q s.blockReset

theorem propagate_mem (f : TransportFailure) : propagate f ∈ [ResultCode.error, .timeout, .busy] := by
  cases f <;> decide

theorem collapse_mem (f : TransportFailure) : collapse f ∈ [ResultCode.error, .timeout, .busy] := by
  cases f <;> decide

namespace CommandClosed

variable {P Q : State → Prop} (h : CommandClosed P Q)

include h in
theorem memRead_andThen {s : State} (hs : P s) (r : Access) {code : TransportFailure → ResultCode}
    (hc : ∀ f, code f ∈ [ResultCode.error, .timeout, .busy]) {k : List Byte → State → State}
    (hk : ∀ v t, P t → Q (k v t)) : Q ((memRead r s).andThen code k) :=
  memRead_cases r code k (h.reset s hs) (fun f hr hf => h.readFailed s r f _ hs (hc f) hr hf)
    fun hr ok => hk _ _ (h.readOk s r hs hr ok)

include h in
theorem readByte {s : State} (hs : P s) (r : Access) {k : Byte → State → State} (hk : ∀ b t, P t → Q (k b t)) :
    Q (Machine.readByte r s k) := h.memRead_andThen hs r propagate_mem fun _ t ht => hk _ t ht

include h in
theorem writeBytes {s : State} (hs : P s) {r : Access} {v : List Byte} (hr : r ≠ .temp) (hv : v.length = r.len)
    {k : State → State} (hk : ∀ t, P t → Q (k t)) : Q (Machine.writeBytes r v s k) :=
  writeBytes_cases r v k (h.reset s hs) (fun f hn hf => h.writeFailed s r v f _ hs hr hv (propagate_mem f) hn hf)
    fun hn ok => hk _ (h.writeOk s r v hs hr hv hn ok)

include h in
theorem withDestination {s : State} (hs : P s) (dp : Bool) {k : State → State} (hk : P s → Q (k s)) :
    Q (Machine.withDestination dp s k) := by
  cases dp
  · exact h.invalid s hs
  · exact hk hs

include h in
theorem getByte {s : State} (hs : P s) (r : Access) (dp : Bool) : Q (Machine.getByte r dp s) :=
  h.withDestination hs dp fun hs => h.readByte hs r fun _ t ht => h.respond t _ ht

include h in
theorem readModifyWrite {s : State} (hs : P s) {r : Access} (hr : r ≠ .temp) (hl : r.len = 1) (edit : Byte → Byte) :
    Q (Machine.readModifyWrite r edit s) :=
  h.readByte hs r fun _ _ ht => h.writeBytes (h.setLatch _ _ ht) hr (by simp [hl]) fun _ hu => h.respond _ _ hu

include h in
/-- A property that the shared operations keep is kept by every command. -/
theorem exec {i : Instr} {s t : State} (hs : P s) (e : Machine.exec i s = .next t) : Q t := by
  cases i <;> cases e
  case bcdEnc d =>
    split
    · exact h.respond _ _ hs
    · exact h.respondDrawn _ _ hs
  case bcdDec => exact h.respond _ _ hs
  case readTime =>
    exact h.withDestination hs _ fun hs =>
      h.memRead_andThen hs .time propagate_mem fun _ _ ht => h.respond _ _ (h.setRbuf _ _ ht)
  case setTime =>
    split
    · exact h.writeBytes hs (by decide) rfl fun _ ht => h.respond _ _ ht
    · exact h.invalid _ hs
  case getTemp =>
    exact h.withDestination hs _ fun hs =>
      h.memRead_andThen hs .temp collapse_mem fun _ _ ht => h.respond _ _ (h.setRbuf _ _ ht)
  case getStatus => exact h.getByte hs _ _
  case clearStatus => exact h.readModifyWrite hs (by decide) rfl _
  case getControl => exact h.getByte hs _ _
  case updateControl => exact h.readModifyWrite hs (by decide) rfl _
  case clearControl => exact h.readModifyWrite hs (by decide) rfl _
  case enable32khz en =>
    cases en
    · exact h.readModifyWrite hs (by decide) rfl _
    · show Q (oscillatorOn s fun s => switchOutput true s)
      refine h.readByte hs .control fun b t ht => ?_
      have hl := h.setLatch t b ht
      simp only []
      split
      · exact h.writeBytes hl (by decide) rfl fun u hu => h.readModifyWrite hu (by decide) rfl _
      · exact h.readModifyWrite hl (by decide) rfl _
  case setSqwFreq => exact h.readModifyWrite hs (by decide) rfl _
  case setAging => exact h.writeBytes hs (by decide) rfl fun _ ht => h.respond _ _ ht
  case getAging => exact h.getByte hs _ _

end CommandClosed

/-! ## Steps -/

theorem step_of_running {s : State} {k : Nat} (h : s.phase = .running k) : step s = .fault .commandInProgress := by
  simp [step, h]

/-- Everything a step of the idle block can do. -/
theorem step_cases {s t : State} (hp : s.phase = .idle) (h : step s = .next t) :
    (s.host = [] ∧ t = s) ∨ (∃ rest, s.host = .reset :: rest ∧ t = s.popHost.blockReset)
    ∨ ∃ cw resetAfter rest, s.host = .command cw resetAfter :: rest
      ∧ ((∃ e, decode cw = .error e ∧ t = illegalCommand (s.popHost.accept cw resetAfter))
        ∨ ∃ i, decode cw = .ok i ∧ exec i (s.popHost.accept cw resetAfter) = .next t) := by
  simp only [step, hp] at h
  split at h
  · next hh => exact .inl ⟨hh, by cases h; rfl⟩
  · next rest hh => exact .inr (.inl ⟨rest, hh, by cases h; rfl⟩)
  · next cw r rest hh =>
    refine .inr (.inr ⟨cw, r, rest, hh, ?_⟩)
    unfold runWord at h
    split at h
    · next i hi => exact .inr ⟨i, hi, h⟩
    · next e he => exact .inl ⟨e, he, by cases h; rfl⟩

/-- A run goes on from the next state. -/
theorem run_succ {n : Nat} {s t : State} (h : step s = .next t) :
    Host.Core.run Sys2Proof.core (n + 1) s = Host.Core.run Sys2Proof.core n t := by
  have h' : Sys2Proof.core.step s = .next t := h
  simp only [Host.Core.run, h']

end Sys2Proof.Machine
end

