-- ==== Sys2Proof/Laws/Environment.lean ====
section
/-! SUPPORT. How the premises about the environment and the device move through a command: canonical memory, registers the
device leaves alone, and the MOCK device. -/

namespace Sys2Proof.Machine

open Sys2Proof

variable {s : State} {a : Nat}

/-! ## The device around a transaction -/

theorem State.devNow_wf (h : s.mem.wf = true) : s.devNow.wf = true := Memory.wf_own h _

/-- Every run that can be written fits the map (R50, R56). -/
theorem Access.fits {r : Access} (h : r ≠ .temp) : r.addr + r.len ≤ regCount := by
  cases r <;> first | contradiction | decide

theorem Memory.wf_storeRun {m : Memory} (hm : m.wf = true) {r : Access} (hr : r ≠ .temp) {v : List Byte}
    (hv : v.length = r.len) : (m.writeRun r.addr v).wf = true :=
  Memory.wf_writeRun hm _ _ (by rw [hv]; exact Access.fits hr)

/-- A write to a run leaves every register outside it alone. -/
theorem Memory.read_storeRun_of_not_mem {m : Memory} (hm : m.wf = true) {r : Access} (hr : r ≠ .temp) {v : List Byte}
    (hv : v.length = r.len) (ha : a ∉ r.addresses) : (m.writeRun r.addr v).read a = m.read a := by
  rw [Memory.read_writeRun hm _ _ (by rw [hv]; exact Access.fits hr), if_neg]
  rintro ⟨h1, h2⟩
  refine ha ?_
  simp only [Access.addresses, List.mem_map, List.mem_range]
  exact ⟨a - r.addr, by omega, by omega⟩

/-! ## A register the device leaves alone -/

theorem State.Untouched.read_before (h : s.Untouched a) {m : Memory} (hm : m.wf = true) (k : Nat) :
    (m.own (s.turnAt k).before).read a = m.read a :=
  Memory.read_own hm _ _ fun c hc => h k c (List.mem_append_left _ hc)

theorem State.Untouched.read_after (h : s.Untouched a) {m : Memory} (hm : m.wf = true) (k : Nat) :
    (m.own (s.turnAt k).after).read a = m.read a :=
  Memory.read_own hm _ _ fun c hc => h k c (List.mem_append_right _ hc)

theorem State.Untouched.completed (h : s.Untouched a) (x : Transaction) (dev : Memory) :
    (s.completed x dev).Untouched a := fun k => by
  rw [State.completed_turnAt]; exact h (k + 1)

/-! ## The MOCK device (R58) -/

theorem State.MockDevice.completed (h : s.MockDevice) (x : Transaction) (dev : Memory) :
    (s.completed x dev).MockDevice := fun k => by
  rw [State.completed_turnAt]; exact h (k + 1)

/-- A free value drawn for something else does not change the coming turns of the MOCK device. -/
theorem State.MockDevice.draw (h : s.MockDevice) : s.draw.MockDevice := by
  intro k
  have h0 := h k
  have h1 := h (k + 1)
  unfold State.turnAt at *
  simp only [State.draw_script, State.draw_rest, State.draw_draws]
  rcases e : s.script[k]? with _ | t
  · rw [e] at h0
    have hk : s.script.length ≤ k := by simpa using e
    have e' : s.script[k + 1]? = none := by rw [List.getElem?_eq_none_iff]; omega
    rw [e'] at h1
    rcases hr : s.rest with _ | _
    · rfl
    · rw [hr] at h1
      simp only at h1 ⊢
      rw [← h1]; congr 1; omega
  · rw [e] at h0; exact h0

theorem State.MockDevice.finish (h : s.MockDevice) (c : ResultCode) (p : Field56) : (s.finish c p).MockDevice := by
  unfold State.finish; split <;> exact h

/-- The MOCK device stays the MOCK device through a command, so a claim over several commands needs the premise once. -/
theorem mockDevice_closed : CommandClosed State.MockDevice State.MockDevice where
  setLatch _ _ h := h
  setRbuf _ _ h := h
  readOk _ _ h _ _ := h.completed _ _
  writeOk s _ _ h _ _ _ _ := State.MockDevice.completed (s := s.setWbuf _) h _ _
  readFailed s r f _ h _ _ _ := ((h.completed (.read r.addr r.len (.failed f) []) s.devNow).draw).finish _ _
  writeFailed s r v f _ h _ _ _ _ _ :=
    ((State.MockDevice.completed (s := s.setWbuf (writeBuffer r v)) h
      (.write (writeBuffer r v) (v.length + 1) (.failed f)) s.devNow).draw).finish _ _
  respond _ _ h := h.finish _ _
  respondDrawn _ _ h := h.draw.finish _ _
  invalid _ h := h.draw.finish _ _
  reset _ h _ := h

/-! ## The surroundings -/

/-- No command touches the latched word, the host's inputs, the parameters or the rest of the environment, unless a reset
arrives. -/
theorem surroundings_closed (s₀ : State) :
    CommandClosed (fun s => s.resetDue = none ∧ SameSurroundings s₀ s) (SameSurroundings s₀) := by
  have fin : ∀ (s : State) c p, s.resetDue = none ∧ SameSurroundings s₀ s → SameSurroundings s₀ (s.finish c p) :=
    fun s c p h => by rw [State.finish_of_none h.1]; exact h.2
  exact {
    setLatch := fun _ _ h => h
    setRbuf := fun _ _ h => h
    readOk := fun _ _ h _ _ => h
    writeOk := fun _ _ _ h _ _ _ _ => h
    readFailed := fun s r f _ h _ _ _ => fin (s.completed (.read r.addr r.len (.failed f) []) s.devNow).draw _ _ h
    writeFailed := fun s r v f _ h _ _ _ _ _ =>
      fin ((s.setWbuf (writeBuffer r v)).completed (.write (writeBuffer r v) (v.length + 1) (.failed f)) s.devNow).draw _ _ h
    respond := fun _ _ h => fin _ _ _ h
    respondDrawn := fun s _ h => fin s.draw _ _ h
    invalid := fun s h => fin s.draw _ _ h
    reset := fun s h hr => by rw [State.resetNow_of_none h.1] at hr; cases hr }

end Sys2Proof.Machine
end

