-- ==== Sys2Proof/Laws/PerInstr.lean ====
section
/-! SUPPORT. Facts about every command as syntax, one lemma a constructor. -/

namespace Sys2Proof.Laws.EncodeLegal

open Sys2Proof

/-- The encoding of the command has its opcode byte (R84) and every reserved bit of its format 0 (R86). -/
def Statement (i : Instr) : Prop :=
  i.wellFormed = true ∧ opcodeByte (encode i) = i.opcode.byte ∧ encode i &&& i.opcode.format.reserved = 0

theorem bcdEnc (d : Byte) : Statement (.bcdEnc d) := ⟨rfl, opcodeByte_word _ _, reserved_byteOperand _ _⟩
theorem bcdDec (b : Byte) : Statement (.bcdDec b) := ⟨rfl, opcodeByte_word _ _, reserved_byteOperand _ _⟩
theorem readTime (dp : Bool) : Statement (.readTime dp) := ⟨rfl, opcodeByte_word _ _, reserved_bitOperand _ _⟩
theorem setTime (year month date weekday hour minute second : Byte) :
    Statement (.setTime year month date weekday hour minute second) := ⟨rfl, opcodeByte_word _ _, BitVec.and_zero⟩
theorem getTemp (dp : Bool) : Statement (.getTemp dp) := ⟨rfl, opcodeByte_word _ _, reserved_bitOperand _ _⟩
theorem getStatus (dp : Bool) : Statement (.getStatus dp) := ⟨rfl, opcodeByte_word _ _, reserved_bitOperand _ _⟩
theorem clearStatus (mask : Byte) : Statement (.clearStatus mask) :=
  ⟨rfl, opcodeByte_word _ _, reserved_byteOperand _ _⟩
theorem getControl (dp : Bool) : Statement (.getControl dp) := ⟨rfl, opcodeByte_word _ _, reserved_bitOperand _ _⟩
theorem updateControl (mask : Byte) : Statement (.updateControl mask) :=
  ⟨rfl, opcodeByte_word _ _, reserved_byteOperand _ _⟩
theorem clearControl (mask : Byte) : Statement (.clearControl mask) :=
  ⟨rfl, opcodeByte_word _ _, reserved_byteOperand _ _⟩
theorem enable32khz (en : Bool) : Statement (.enable32khz en) := ⟨rfl, opcodeByte_word _ _, reserved_bitOperand _ _⟩
theorem setSqwFreq (rsBits : Byte) : Statement (.setSqwFreq rsBits) :=
  ⟨rfl, opcodeByte_word _ _, reserved_byteOperand _ _⟩
theorem setAging (offset : Byte) : Statement (.setAging offset) :=
  ⟨rfl, opcodeByte_word _ _, reserved_byteOperand _ _⟩
theorem getAging (dp : Bool) : Statement (.getAging dp) := ⟨rfl, opcodeByte_word _ _, reserved_bitOperand _ _⟩

end Sys2Proof.Laws.EncodeLegal
end

