-- ==== Sys2Proof/Tests/Slice0.lean ====
section
/-! SUPPORT. The model's own tests. Every expected value is the spec's: the rule or the vector of spec/95_test_vectors.md that
gives it is named. After them, one witness for the hypotheses of every statement that has some. -/

namespace Sys2Proof.Tests

open Sys2Proof Sys2Proof.Machine

/-! ## Small states -/

/-- The host presents `cw` to the block beside the MOCK device (R58) holding `dev`; the environment takes `turns` first. -/
def shown (turns : List Turn) (dev : Memory) (cw : Word64) : State :=
  { State.resetWith dev with script := turns, rest := .mock, host := [.command cw none] }

/-- The state after one step. -/
def after (s : State) : Option State :=
  match step s with
  | .next t => some t
  | .fault _ => none
  | .refused _ => none

/-- A turn that fails. -/
def failed (f : TransportFailure) : Turn := { before := [], status := .failed f, after := [] }

/-- The result code, the transactions and one device register after one step. -/
def outcome (s : State) (a : Nat) : Option (Option ResultCode × List Transaction × Byte) :=
  (after s).map fun t => (t.code, t.bus, t.mem.read a)

/-- The response word after one step. -/
def answer (s : State) : Option Word64 := (after s).bind State.resultWord

/-! ## Words (R81 to R84, written out), one a command -/

theorem test_decode_bcdEnc : decode 0x1000000000000019 = .ok (.bcdEnc 25) := by rfl
theorem test_decode_bcdDec : decode 0x1100000000000059 = .ok (.bcdDec 0x59) := by rfl
theorem test_decode_readTime : decode 0x2000000000000001 = .ok (.readTime true) := by rfl
theorem test_decode_setTime : decode 0x211909180310141E = .ok (.setTime 25 9 24 3 16 20 30) := by rfl
theorem test_decode_getTemp : decode 0x3000000000000000 = .ok (.getTemp false) := by rfl
theorem test_decode_getStatus : decode 0x4000000000000001 = .ok (.getStatus true) := by rfl
theorem test_decode_clearStatus : decode 0x4100000000000080 = .ok (.clearStatus 0x80) := by rfl
theorem test_decode_getControl : decode 0x5000000000000001 = .ok (.getControl true) := by rfl
theorem test_decode_updateControl : decode 0x5100000000000020 = .ok (.updateControl 0x20) := by rfl
theorem test_decode_clearControl : decode 0x5200000000000004 = .ok (.clearControl 0x04) := by rfl
theorem test_decode_enable32khz : decode 0x6000000000000001 = .ok (.enable32khz true) := by rfl
theorem test_decode_setSqwFreq : decode 0x7000000000000018 = .ok (.setSqwFreq 0x18) := by rfl
theorem test_decode_setAging : decode 0x80000000000000FD = .ok (.setAging 0xFD) := by rfl
theorem test_decode_getAging : decode 0x8100000000000000 = .ok (.getAging false) := by rfl

/-- A table word of 64 bits is the word itself. -/
theorem test_decodeTableWord : decodeTableWord 64 0x60000000000000000000000000000001 = none
    ∧ decodeTableWord 64 0x6000000000000001 = some (.enable32khz true) := by decide

/-! ## Ill-formed words and parameters (V19, V71, V77 to V81; R9) -/

theorem test_illformed_opcode : wellFormedWord 0x2200000000000000 = false ∧ wellFormedWord 0 = false
    ∧ decode 0xFF00000000000000 = .error (.unknownOpcode 0xFF) := by decide
theorem test_illformed_reserved_b : wellFormedWord 0x1000000000000100 = false
    ∧ decode 0x1000000000000100 = .error (.reservedBitSet .bcdEnc) := by decide
theorem test_illformed_reserved_g : wellFormedWord 0x2000000000000003 = false
    ∧ decode 0x2000000000000003 = .error (.reservedBitSet .readTime) := by decide
theorem test_illformed_reserved_e : wellFormedWord 0x6000000000000002 = false
    ∧ decode 0x6000000000000002 = .error (.reservedBitSet .enable32khz) := by decide
theorem test_wellformed_absent_destination : wellFormedWord 0x2000000000000000 = true
    ∧ (Instr.readTime false).wellFormed = true := by decide

theorem test_masks_default : Config.defaultMasks.wf = true := by decide
theorem test_masks_control_no_bit : Masks.wf { Config.defaultMasks with conv := 0 } = false := by decide
theorem test_masks_control_shared : Masks.wf { Config.defaultMasks with a1ie := 0x02 } = false := by decide
theorem test_masks_rate_on_interrupt : Masks.wf { Config.defaultMasks with rsShift := 2 } = false := by decide
theorem test_masks_rate_outside : Masks.wf { Config.defaultMasks with rsShift := 7 } = false := by decide
theorem test_masks_status_two_bits : Masks.wf { Config.defaultMasks with osf := 0xC0 } = false := by decide
theorem test_masks_status_shared : Masks.wf { Config.defaultMasks with a1f := 0x02 } = false := by decide

/-! ## Text (R90's example) -/

theorem test_assemble : assemble ⟨.setTime, [.number 25, .number 9, .number 24, .number 3, .number 16, .number 20,
      .number 30]⟩ = some (.setTime 25 9 24 3 16 20 30)
    ∧ assemble ⟨.setAging, [.number (-3)]⟩ = some (.setAging 0xFD) ∧ assemble ⟨.getTemp, [.nodst]⟩ = some (.getTemp false)
    ∧ assemble ⟨.bcdEnc, [.number 256]⟩ = none ∧ operationNamed "SetSQWFreq" = some .setSqwFreq
    ∧ operationNamed "SET_SQW" = none := by decide

/-! ## One step of each command -/

/-- V6; V8 fixes the code alone. -/
theorem test_bcdEnc : answer (shown [] [] 0x1000000000000063) = some 0x0000000000000099
    ∧ outcome (shown [] [] 0x10000000000000FF) 0 = some (some .success, [], 0) := by decide
/-- V11 and V18. -/
theorem test_bcdDec : answer (shown [] [] 0x110000000000000A) = some 10
    ∧ answer (shown [] [] 0x11000000000000FF) = some 0xA5 := by decide

/-- V21: every reserved bit set, the century flag too. -/
theorem test_readTime : answer (shown [] [(0, 0xB0), (1, 0xA0), (2, 0xD6), (3, 0xFB), (4, 0xE4), (5, 0x89), (6, 0x25)]
    0x2000000000000001) = some 0x001909180310141E := by decide
/-- V26a. -/
theorem test_readTime_timeout : outcome (shown [failed .timeout] [] 0x2000000000000001) 0
    = some (some .timeout, [.read 0 7 (.failed .timeout) []], 0) := by decide

/-- V38. -/
theorem test_setTime : outcome (shown [] [] 0x21630C1F07173B3B) 6
    = some (some .success, [.write [0x00, 0x59, 0x59, 0x23, 0x07, 0x31, 0x12, 0x99] 8 .ok], 0x99) := by decide
/-- V27 and V36. -/
theorem test_setTime_range : outcome (shown [] [] 0x211909180310143C) 0 = some (some .invalidParam, [], 0)
    ∧ outcome (shown [] [] 0x216409180310141E) 6 = some (some .invalidParam, [], 0) := by decide

/-- S7, the negative example. -/
theorem test_getTemp : answer (shown [] [(0x11, 0xE0)] 0x3000000000000001) = some 0xFF80 := by decide
/-- P6, step 3: `ERROR`, not `TIMEOUT`. -/
theorem test_getTemp_timeout : outcome (shown [failed .timeout] [] 0x3000000000000001) 0
    = some (some .error, [.read 0x11 2 (.failed .timeout) []], 0) := by decide

/-- V56; an absent destination. -/
theorem test_getStatus : answer (shown [] [(0x0F, 0x88)] 0x4000000000000001) = some 0x88
    ∧ outcome (shown [] [(0x0F, 0x88)] 0x4000000000000000) 0x0F = some (some .invalidParam, [], 0x88) := by decide

/-- S5. -/
theorem test_clearStatus : outcome (shown [] [(0x0F, 0xFF)] 0x4100000000000001) 0x0F
    = some (some .success, [.read 0x0F 1 .ok [0xFF], .write [0x0F, 0xFE] 2 .ok], 0xFE) := by decide
/-- P5: the device raises `A1F` between the read and the write. -/
theorem test_clearStatus_lost_update :
    outcome (shown [Turn.mock, { before := [(0x0F, 0x89)], status := .ok, after := [] }] [(0x0F, 0x88)]
      0x4100000000000080) 0x0F
    = some (some .success, [.read 0x0F 1 .ok [0x88], .write [0x0F, 0x08] 2 .ok], 0x08) := by decide

/-- The worked example of R150; V59c. -/
theorem test_getControl : answer (shown [] [(0x0E, 0x1C)] 0x5000000000000001) = some 0x1C
    ∧ outcome (shown [] [(0x0E, 0x1C)] 0x5000000000000000) 0x0E = some (some .invalidParam, [], 0x1C) := by decide

/-- V59d. -/
theorem test_updateControl : outcome (shown [] [] 0x51000000000000FF) 0x0E
    = some (some .success, [.read 0x0E 1 .ok [0], .write [0x0E, 0xFF] 2 .ok], 0xFF) := by decide
/-- V59a. -/
theorem test_updateControl_timeout : outcome (shown [Turn.mock, failed .timeout] [(0x0E, 0x1C)] 0x5100000000000020) 0x0E
    = some (some .timeout, [.read 0x0E 1 .ok [0x1C], .write [0x0E, 0x3C] 2 (.failed .timeout)], 0x1C) := by decide

/-- The worked example of R152. -/
theorem test_clearControl : outcome (shown [] [(0x0E, 0x3C)] 0x5200000000000020) 0x0E
    = some (some .success, [.read 0x0E 1 .ok [0x3C], .write [0x0E, 0x1C] 2 .ok], 0x1C) := by decide

/-- V67; V69: disabling does not touch CONTROL. -/
theorem test_enable32khz : outcome (shown [] [(0x0E, 0x9C), (0x0F, 0x80)] 0x6000000000000001) 0x0F
    = some (some .success, [.read 0x0E 1 .ok [0x9C], .write [0x0E, 0x1C] 2 .ok, .read 0x0F 1 .ok [0x80],
        .write [0x0F, 0x88] 2 .ok], 0x88)
    ∧ outcome (shown [] [(0x0E, 0x9C), (0x0F, 0x88)] 0x6000000000000000) 0x0F
    = some (some .success, [.read 0x0F 1 .ok [0x88], .write [0x0F, 0x80] 2 .ok], 0x80) := by decide
/-- V70 and P4: partial completion. -/
theorem test_enable32khz_partial :
    outcome (shown [Turn.mock, Turn.mock, failed .busy] [(0x0E, 0x9C), (0x0F, 0x88)] 0x6000000000000001) 0x0E
    = some (some .busy, [.read 0x0E 1 .ok [0x9C], .write [0x0E, 0x1C] 2 .ok, .read 0x0F 1 (.failed .busy) []], 0x1C) := by
  decide

/-- V64. -/
theorem test_setSqwFreq : outcome (shown [] [(0x0E, 0xE7)] 0x70000000000000FF) 0x0E
    = some (some .success, [.read 0x0E 1 .ok [0xE7], .write [0x0E, 0x7B] 2 .ok], 0x7B) := by decide
/-- V65: an unshifted index 3 is read as rate 0. -/
theorem test_setSqwFreq_index : outcome (shown [] [(0x0E, 0xE7)] 0x7000000000000003) 0x0E
    = some (some .success, [.read 0x0E 1 .ok [0xE7], .write [0x0E, 0x63] 2 .ok], 0x63) := by decide

/-- V72. -/
theorem test_setAging : outcome (shown [] [] 0x80000000000000FD) 0x10
    = some (some .success, [.write [0x10, 0xFD] 2 .ok], 0xFD) := by decide
/-- V73 and V76. -/
theorem test_getAging : answer (shown [] [(0x10, 0xFD)] 0x8100000000000001) = some 0xFD
    ∧ outcome (shown [] [] 0x8100000000000000) 0x10 = some (some .invalidParam, [], 0) := by decide

/-! ## Illegal words, reset, the host (R86, R87, R230, R231) -/

/-- V71. -/
theorem test_illegal_command : outcome (shown [] [] 0x6000000000000002) 0x0F = some (some .invalidParam, [], 0) := by decide
theorem test_reset_waits : step State.reset = .next State.reset := by rfl
/-- The row's word is the next thing the block runs, right after reset. -/
theorem test_withFetchWord : ∃ t, step (State.reset.withFetchWord 64 0x110000000000000A) = .next t
    ∧ t.resultWord = some 10 ∧ t.host = [] := ⟨_, rfl, by decide, rfl⟩
/-- R231: reset after the first write of V67; what it wrote stays, nothing follows, no response. -/
theorem test_reset_mid_command :
    (after { shown [] [(0x0E, 0x9C)] 0 with host := [.command 0x6000000000000001 (some 2)] }).map
      (fun t => (t.phase, t.response, t.bus.length, t.mem)) = some (.idle, none, 2, [(0x0E, 0x1C)]) := by decide

/-! ## The device registers -/

theorem test_memory_reset_wf : State.reset.mem.wf = true := by decide
theorem test_memory_canonical : Memory.write [(0x0E, 0x1C), (0x0F, 0x88)] 0x0E 0 = [(0x0F, 0x88)]
    ∧ Memory.write [(0x0F, 0x88)] 0x0E 0x1C = [(0x0E, 0x1C), (0x0F, 0x88)] ∧ Memory.wf [(0x13, 1)] = false
    ∧ Memory.wf [(0x0E, 0)] = false ∧ Memory.wf [(0x0F, 1), (0x0E, 1)] = false := by decide

/-! ## Witnesses: the hypotheses of each statement can be met, each clause at the edges of its range -/

/-- A command has just been accepted, no reset is to come, the device is the MOCK device. -/
def ready : State := { State.resetWith [] with phase := .running 0, rest := .mock }

/-- The first, or the second, coming transaction fails. -/
def failing (f : TransportFailure) : State := { ready with script := [failed f] }
def failingSecond (f : TransportFailure) : State := { ready with script := [Turn.mock, failed f] }

/-- CONTROL has `EOSC` set. -/
def stopped (turns : List Turn) : State := { ready with mem := [(0x0E, 0x9C)], script := turns }

/-- The state after a command. -/
def ran (i : Instr) (s : State) : Option State :=
  match exec i s with
  | .next t => some t
  | .fault _ => none
  | .refused _ => none

/-- A command of every constructor, with a present destination and operands in range. -/
def samples : List Instr :=
  [.bcdEnc 99, .bcdDec 0xFF, .readTime true, .setTime 99 12 31 7 23 59 59, .getTemp true, .getStatus true, .clearStatus 0xFF,
   .getControl true, .updateControl 0xFF, .clearControl 0xFF, .enable32khz true, .enable32khz false, .setSqwFreq 0xFF,
   .setAging 0x80, .getAging true]

/-- The commands `INVALID_PARAM` comes from. -/
def rejected : List Instr :=
  [.readTime false, .setTime 100 9 24 3 16 20 30, .getTemp false, .getStatus false, .getControl false, .getAging false]

theorem ready_mock : ready.MockDevice := State.mock_turnAt rfl rfl

theorem ready_untouched (a : Nat) : ready.Untouched a := fun k c hc => by
  rw [ready_mock k] at hc; exact absurd hc (List.not_mem_nil)

/-- Every sample succeeds at `ready`, every rejected command is answered, and every sample that uses the bus fails at
`failing f` with a transaction recorded. -/
theorem samples_run : ready.resetDue = none ∧ ready.mem.wf = true
    ∧ (∀ i ∈ samples, (ran i ready).bind State.code = some .success)
    ∧ (∀ i ∈ rejected, (ran i ready).bind State.code = some .invalidParam)
    ∧ (∀ i ∈ samples.drop 2, ∀ f ∈ [TransportFailure.error, .timeout, .busy],
        (ran i (failing f)).bind State.code = some (if i = .getTemp true then .error else propagate f)
        ∧ (ran i (failing f)).map (fun t => t.bus.length) = some 1) := by decide

theorem witness_EncodeOfDecodeReturnsTheWord :
    decode 0x21FFFFFFFFFFFFFF = .ok (.setTime 255 255 255 255 255 255 255) := by rfl

theorem witness_LegalWordsSelectExactlyOneRow :
    ∃ r ∈ commandRows, r.selects 0x8100000000000001 = true ∧ decode 0x8100000000000001 = .ok (.getAging true) :=
  ⟨⟨.getAging, 0x8100000000000000, Format.g.mask⟩, by decide, by decide, rfl⟩

/-- The lowest and the highest reserved bit of each format that has one, and the bytes beside the listed opcodes. -/
theorem witness_IllegalCommandCompletesWithInvalidParam :
    Opcode.ofByte (opcodeByte 0x1200000000000000) = none ∧ Opcode.ofByte (opcodeByte 0x8200000000000000) = none
    ∧ (Opcode.ofByte (opcodeByte 0x1000000000000100) = some .bcdEnc ∧ 0x1000000000000100 &&& Format.b.reserved ≠ 0)
    ∧ 0x1080000000000000 &&& Format.b.reserved ≠ 0 ∧ 0x2000000000000002 &&& Format.g.reserved ≠ 0
    ∧ 0x2080000000000000 &&& Format.g.reserved ≠ 0 ∧ 0x6000000000000002 &&& Format.e.reserved ≠ 0
    ∧ (shown [] [] 0).phase = .idle ∧ (shown [] [] 0).host = .command 0 none :: []
    ∧ decode 0 = .error (.unknownOpcode 0) := by decide

theorem witness_StepRunsTheDecodedCommand : ∃ s : State, s.phase = .idle
    ∧ s.host = .command 0x6000000000000001 (some 3) :: [.reset] ∧ decode 0x6000000000000001 = .ok (.enable32khz true) :=
  ⟨{ State.reset with host := [.command 0x6000000000000001 (some 3), .reset] }, rfl, rfl, rfl⟩

theorem witness_IdleBlockWaitsForACommand : State.reset.phase = .idle ∧ State.reset.host = [] := ⟨rfl, rfl⟩

theorem witness_HostResetLeavesTheDeviceAlone : ∃ s : State, s.phase = .idle ∧ s.host = .reset :: [] ∧ s.mem ≠ [] :=
  ⟨{ State.resetWith [(0x0E, 0x1C)] with host := [.reset] }, rfl, rfl, by decide⟩

theorem witness_NoStepTakesASecondCommand : ready.phase = .running 0 := rfl

theorem witness_InvariantHoldsAfterReset : Memory.wf [(0x00, 0x30), (0x12, 0xFF)] = true := by decide

theorem witness_EveryStepKeepsTheInvariant :
    (shown [] [(0x0E, 0x9C)] 0x6000000000000001).Inv ∧ ∃ t, step (shown [] [(0x0E, 0x9C)] 0x6000000000000001) = .next t :=
  ⟨⟨rfl, rfl, by decide, by decide, fun _ h => absurd h List.not_mem_nil, fun _ h => by cases h⟩, _, rfl⟩

theorem witness_EveryRunOfAnIdleBlockGoesOn : State.reset.phase = .idle := rfl

theorem witness_ResetAbandonsTheCommand : ∀ k ∈ [0, 1, 4, 5],
    State.phase { ready with resetDue := some k } = .running 0 ∧ State.resetDue { ready with resetDue := some k } = some k := by
  decide

theorem witness_ResetBetweenReadAndWriteStoresNothing : State.phase { ready with resetDue := some 1 } = .running 0
    ∧ State.resetDue { ready with resetDue := some 1 } = some 1
    ∧ (State.turnAt { ready with resetDue := some 1 } 0).status = .ok := by decide

theorem witness_EveryCommandIsAnswered : ready.resetDue = none := rfl

theorem witness_EachCommandReturnsOnlyItsCodes : ∃ t r, ready.resetDue = none ∧ exec (.getTemp true) ready = .next t
    ∧ t.response = some r := ⟨_, _, rfl, rfl, rfl⟩

theorem witness_InvalidParamPrecedesAnyBusActivity : ∃ t, ready.resetDue = none
    ∧ exec (.readTime false) ready = .next t ∧ t.code = some .invalidParam := ⟨_, rfl, rfl, rfl⟩

theorem witness_NotReadyIsNeverProduced : (∃ t r, exec (.getAging true) ready = .next t ∧ t.response = some r)
    ∧ ∃ t r, (shown [] [] 0).host = .command 0 none :: [] ∧ step (shown [] [] 0) = .next t ∧ t.response = some r :=
  ⟨⟨_, _, rfl, rfl⟩, _, _, rfl, rfl, rfl⟩

theorem witness_CommandEndsAtItsFirstFailure : ∃ t, (failing .busy).resetDue = none
    ∧ exec (.enable32khz true) (failing .busy) = .next t := ⟨_, rfl, rfl⟩

theorem witness_OutcomeDoesNotDependOnEarlierCommands : ∃ s s' : State, s ≠ s' ∧ s.phase = .idle ∧ s'.phase = .idle
    ∧ s.host = .command 0x6000000000000001 (some 3) :: [] ∧ s'.host = .command 0x6000000000000001 (some 3) :: [.reset]
    ∧ s.mem = s'.mem ∧ s.script = s'.script ∧ s.rest = s'.rest ∧ s.draws = s'.draws ∧ s.masks = s'.masks :=
  ⟨{ State.reset with host := [.command 0x6000000000000001 (some 3)], latch := 0x55 },
   { State.reset with host := [.command 0x6000000000000001 (some 3), .reset], bus := [.read 0x0F 1 .ok [0]] },
   by decide, rfl, rfl, rfl, rfl, rfl, rfl, rfl, rfl, rfl⟩

theorem witness_BcdEncoderPlacesTheDigits : (0 : Byte).toNat ≤ 99 ∧ (99 : Byte).toNat ≤ 99 := by decide

theorem witness_BcdDecoderIsTotal : (BitVec.extractLsb' 4 4 (0x99 : Byte)).toNat ≤ 9
    ∧ (BitVec.extractLsb' 0 4 (0x99 : Byte)).toNat ≤ 9 ∧ bcdDec 0x99 = bcdDec 0x99 := by decide

theorem witness_BcdCodecRoundTrips : (99 : Byte).toNat ≤ 99 ∧ (BitVec.extractLsb' 4 4 (0x90 : Byte)).toNat ≤ 9
    ∧ (BitVec.extractLsb' 0 4 (0x90 : Byte)).toNat ≤ 9 := by decide

/-- 99 is the last decimal with an encoding; 100 is the first without. -/
theorem witness_BcdEncAnswersTheEncoding : ready.resetDue = none ∧ (99 : Byte).toNat ≤ 99 ∧ ¬(100 : Byte).toNat ≤ 99 := by
  decide

theorem witness_BcdDecAnswersTheDecimal : ready.resetDue = none := rfl

/-- The hypotheses of every statement that is one read or one write: the first transaction is `OK`, or it fails. -/
theorem witness_firstTransaction : ready.resetDue = none ∧ (ready.turnAt 0).status = .ok
    ∧ ∀ f, (failing f).resetDue = none ∧ ((failing f).turnAt 0).status = .failed f :=
  ⟨rfl, rfl, fun _ => ⟨rfl, rfl⟩⟩

/-- The hypotheses of every statement that is a read and a write. -/
theorem witness_secondTransaction : ready.resetDue = none ∧ (ready.turnAt 0).status = .ok ∧ (ready.turnAt 1).status = .ok
    ∧ (∀ f, ((failing f).turnAt 0).status = .failed f)
    ∧ ∀ f, (failingSecond f).resetDue = none ∧ ((failingSecond f).turnAt 0).status = .ok
      ∧ ((failingSecond f).turnAt 1).status = .failed f :=
  ⟨rfl, rfl, rfl, fun _ => rfl, fun _ => ⟨rfl, rfl, rfl⟩⟩

theorem witness_ReadTimeAnswersTheDecodedRegisters : ready.resetDue = none ∧ (ready.turnAt 0).status = .ok
    ∧ ∀ f, (failing f).resetDue = none ∧ ((failing f).turnAt 0).status = .failed f := witness_firstTransaction

theorem witness_GetTempAnswersQuarterUnits : ready.resetDue = none ∧ (ready.turnAt 0).status = .ok
    ∧ ∀ f, (failing f).resetDue = none ∧ ((failing f).turnAt 0).status = .failed f := witness_firstTransaction

theorem witness_GetStatusAnswersTheRawByte : ready.resetDue = none ∧ (ready.turnAt 0).status = .ok
    ∧ ∀ f, (failing f).resetDue = none ∧ ((failing f).turnAt 0).status = .failed f := witness_firstTransaction

theorem witness_GetControlAnswersTheRawByte : ready.resetDue = none ∧ (ready.turnAt 0).status = .ok
    ∧ ∀ f, (failing f).resetDue = none ∧ ((failing f).turnAt 0).status = .failed f := witness_firstTransaction

theorem witness_GetAgingAnswersTheRawByte : ready.resetDue = none ∧ (ready.turnAt 0).status = .ok
    ∧ ∀ f, (failing f).resetDue = none ∧ ((failing f).turnAt 0).status = .failed f := witness_firstTransaction

theorem witness_SetAgingWritesTheByteAsGiven : ready.resetDue = none ∧ (ready.turnAt 0).status = .ok
    ∧ ∀ f, (failing f).resetDue = none ∧ ((failing f).turnAt 0).status = .failed f := witness_firstTransaction

/-- The smallest and the largest legal record (V37, V38), and every range missed by one (V27 to V36). -/
theorem witness_SetTimeChecksThenWritesSevenRegisters : ready.resetDue = none ∧ (ready.turnAt 0).status = .ok
    ∧ (∀ f, ((failing f).turnAt 0).status = .failed f)
    ∧ TimeRecord.valid ⟨0, 1, 1, 1, 0, 0, 0⟩ = true ∧ TimeRecord.valid ⟨99, 12, 31, 7, 23, 59, 59⟩ = true
    ∧ ∀ t ∈ ([⟨25, 9, 24, 3, 16, 20, 60⟩, ⟨25, 9, 24, 3, 16, 60, 30⟩, ⟨25, 9, 24, 3, 24, 20, 30⟩, ⟨25, 9, 24, 0, 16, 20, 30⟩,
        ⟨25, 9, 24, 8, 16, 20, 30⟩, ⟨25, 9, 0, 3, 16, 20, 30⟩, ⟨25, 9, 32, 3, 16, 20, 30⟩, ⟨25, 0, 24, 3, 16, 20, 30⟩,
        ⟨25, 13, 24, 3, 16, 20, 30⟩, ⟨100, 9, 24, 3, 16, 20, 30⟩] : List TimeRecord), t.valid = false :=
  ⟨rfl, rfl, fun _ => rfl, by decide, by decide, by decide⟩

theorem witness_LegalTimeBytesHaveNoReservedBit : TimeRecord.valid ⟨0, 1, 1, 1, 0, 0, 0⟩ = true
    ∧ TimeRecord.valid ⟨99, 12, 31, 7, 23, 59, 59⟩ = true := by decide

/-- An idle block beside the MOCK device, with two commands presented. -/
def two (i j : Instr) : State :=
  { State.resetWith [] with rest := .mock, host := [.command (encode i) none, .command (encode j) none] }

theorem two_mock (i j : Instr) : (two i j).phase = .idle ∧ (two i j).MockDevice ∧ (two i j).mem.wf = true
    ∧ (two i j).host = .command (encode i) none :: .command (encode j) none :: [] :=
  ⟨rfl, State.mock_turnAt rfl rfl, Memory.wf_nil, rfl⟩

/-- Both ends of the legal ranges. -/
theorem witness_ReadTimeReturnsWhatSetTimeWrote :
    ((two (.setTime 99 12 31 7 23 59 59) (.readTime true)).phase = .idle
      ∧ (two (.setTime 99 12 31 7 23 59 59) (.readTime true)).MockDevice
      ∧ (two (.setTime 99 12 31 7 23 59 59) (.readTime true)).mem.wf = true)
    ∧ ((59 : Byte).toNat ≤ 59 ∧ (23 : Byte).toNat ≤ 23 ∧ (7 : Byte).toNat ≤ 7 ∧ (31 : Byte).toNat ≤ 31
      ∧ (12 : Byte).toNat ≤ 12 ∧ (99 : Byte).toNat ≤ 99)
    ∧ (two (.setTime 0 1 1 1 0 0 0) (.readTime true)).MockDevice ∧ 1 ≤ (1 : Byte).toNat :=
  ⟨⟨rfl, (two_mock _ _).2.1, by decide⟩, by decide, (two_mock _ _).2.1, by decide⟩

theorem witness_UpdateThenClearLeavesTheMaskClear :
    (two (.updateControl 0x04) (.clearControl 0x04)).phase = .idle
    ∧ (two (.updateControl 0x04) (.clearControl 0x04)).MockDevice
    ∧ (two (.updateControl 0x04) (.clearControl 0x04)).mem.wf = true := ⟨rfl, (two_mock _ _).2.1, by decide⟩

theorem witness_GetAgingReturnsWhatSetAgingWrote :
    (two (.setAging 0x80) (.getAging true)).phase = .idle ∧ (two (.setAging 0x80) (.getAging true)).MockDevice
    ∧ (two (.setAging 0x80) (.getAging true)).mem.wf = true := ⟨rfl, (two_mock _ _).2.1, by decide⟩

theorem witness_ClearStatusClearsTheMaskedBits : ready.resetDue = none ∧ (ready.turnAt 0).status = .ok
    ∧ (ready.turnAt 1).status = .ok ∧ (∀ f, ((failing f).turnAt 0).status = .failed f)
    ∧ ∀ f, (failingSecond f).resetDue = none ∧ ((failingSecond f).turnAt 0).status = .ok
      ∧ ((failingSecond f).turnAt 1).status = .failed f := witness_secondTransaction

theorem witness_UpdateControlSetsTheMaskedBits : ready.resetDue = none ∧ (ready.turnAt 0).status = .ok
    ∧ (ready.turnAt 1).status = .ok ∧ (∀ f, ((failing f).turnAt 0).status = .failed f)
    ∧ ∀ f, (failingSecond f).resetDue = none ∧ ((failingSecond f).turnAt 0).status = .ok
      ∧ ((failingSecond f).turnAt 1).status = .failed f := witness_secondTransaction

theorem witness_ClearControlClearsTheMaskedBits : ready.resetDue = none ∧ (ready.turnAt 0).status = .ok
    ∧ (ready.turnAt 1).status = .ok ∧ (∀ f, ((failing f).turnAt 0).status = .failed f)
    ∧ ∀ f, (failingSecond f).resetDue = none ∧ ((failingSecond f).turnAt 0).status = .ok
      ∧ ((failingSecond f).turnAt 1).status = .failed f := witness_secondTransaction

theorem witness_SetSqwFreqRewritesControl : ready.resetDue = none ∧ (ready.turnAt 0).status = .ok
    ∧ (ready.turnAt 1).status = .ok ∧ (∀ f, ((failing f).turnAt 0).status = .failed f)
    ∧ ∀ f, (failingSecond f).resetDue = none ∧ ((failingSecond f).turnAt 0).status = .ok
      ∧ ((failingSecond f).turnAt 1).status = .failed f := witness_secondTransaction

/-- `EOSC` clear in the byte read, and set; each of the four transactions fails, and none does. -/
theorem witness_Enable32khzFollowsItsTransactionPlan :
    (ready.resetDue = none ∧ ready.mem.read 0x0E &&& ready.masks.eosc = 0 ∧ (ready.turnAt 0).status = .ok
      ∧ (ready.turnAt 1).status = .ok ∧ (ready.turnAt 2).status = .ok)
    ∧ ((stopped []).resetDue = none ∧ (stopped []).mem.read 0x0E &&& (stopped []).masks.eosc ≠ 0
      ∧ ((stopped []).turnAt 0).status = .ok ∧ ((stopped []).turnAt 3).status = .ok)
    ∧ (∀ f, ((stopped [failed f]).turnAt 0).status = .failed f)
    ∧ (∀ f, ((stopped [Turn.mock, failed f]).turnAt 1).status = .failed f)
    ∧ (∀ f, ((stopped [Turn.mock, Turn.mock, failed f]).turnAt 2).status = .failed f)
    ∧ ∀ f, ((stopped [Turn.mock, Turn.mock, Turn.mock, failed f]).turnAt 3).status = .failed f :=
  ⟨by decide, by decide, fun _ => rfl, fun _ => rfl, fun _ => rfl, fun _ => rfl⟩

theorem witness_OscillatorIsOnWhenOutputIsEnabled : ∃ t, ready.resetDue = none ∧ ready.mem.wf = true
    ∧ ready.Untouched 0x0E ∧ ready.Untouched 0x0F ∧ exec (.enable32khz true) ready = .next t ∧ t.code = some .success
    ∧ ready.Untouched 0x0D ∧ ready.Untouched 0x10 :=
  ⟨_, rfl, by decide, ready_untouched _, ready_untouched _, rfl, rfl, ready_untouched _, ready_untouched _⟩

theorem witness_OnlyEnable32khzSetsAStatusBit : ∃ t, ready.mem.wf = true ∧ ready.Untouched 0x0F
    ∧ exec (.enable32khz true) ready = .next t ∧ t.mem.read 0x0F &&& ~~~(ready.mem.read 0x0F) = ready.masks.en32k :=
  ⟨_, by decide, ready_untouched _, rfl, by decide⟩

/-- The rate field at its lowest and its highest place, and the four rates of the defaults. -/
theorem witness_WrittenRateIsTheOperandsRate : Config.defaultMasks.wf = true
    ∧ Masks.wf { Config.defaultMasks with rsShift := 0, intcn := 0x10, a2ie := 0x08, a1ie := 0x04 } = true
    ∧ Masks.wf { Config.defaultMasks with
        eosc := 0x20, bbsqw := 0x10, conv := 0x08, rsShift := 6, intcn := 0x04, a2ie := 0x02, a1ie := 0x01 } = true
    ∧ ([0x00, 0x08, 0x10, 0x18].map fun b : Byte => (rateSelected Config.defaultMasks b).hertz) = [1, 1024, 4096, 8192] := by
  decide

theorem witness_ClearStatusCanLoseAFlag : ∃ s : State, s.resetDue = none ∧ s.mem.wf = true ∧ (s.turnAt 0).status = .ok
    ∧ (s.turnAt 1).status = .ok ∧ (s.turnAt 0).before = [] ∧ (s.turnAt 0).after = [] ∧ (s.turnAt 1).before = [(0x0F, 0x89)]
    ∧ (s.turnAt 1).after = [] ∧ (0x01 : Byte) &&& 0x80 = 0 ∧ s.mem.read 0x0F &&& 0x01 = 0 ∧ (0x89 : Byte) &&& 0x01 = 0x01 :=
  ⟨{ ready with mem := [(0x0F, 0x88)], script := [Turn.mock, { before := [(0x0F, 0x89)], status := .ok, after := [] }] },
   by decide⟩

theorem witness_AlarmRegistersAreNeverReached : ∃ t, ready.mem.wf = true
    ∧ exec (.setTime 99 12 31 7 23 59 59) ready = .next t ∧ ready.Untouched 0x07 ∧ ready.Untouched 0x0D
    ∧ ready.Untouched 0x11 ∧ ready.Untouched 0x12 :=
  ⟨_, by decide, rfl, ready_untouched _, ready_untouched _, ready_untouched _, ready_untouched _⟩

theorem witness_SuccessfulCommandIssuesItsPlan : ∃ t, (stopped []).resetDue = none
    ∧ exec (.enable32khz true) (stopped []) = .next t ∧ t.code = some .success := ⟨_, rfl, rfl, rfl⟩

theorem witness_TransientRegistersHoldTheBytesMoved : ready.resetDue = none
    ∧ ∀ i ∈ samples, (ran i ready).bind State.code = some .success := ⟨rfl, samples_run.2.2.1⟩

theorem witness_FrameOfTheCodecCommands : ready.resetDue = none
    ∧ ∀ i ∈ [Instr.bcdEnc 100, .bcdDec 100], (ran i ready).isSome = true := by decide

theorem witness_FrameOfTheReadingCommands : ready.resetDue = none ∧ ready.mem.wf = true
    ∧ (∀ dp ∈ [true, false], ∀ i ∈ [Instr.readTime dp, .getTemp dp, .getStatus dp, .getControl dp, .getAging dp],
        (ran i ready).isSome = true)
    ∧ ∀ a, a ∉ [] ∧ ready.Untouched a :=
  ⟨rfl, by decide, by decide, fun a => ⟨List.not_mem_nil, ready_untouched a⟩⟩

theorem witness_FrameOfTheWritingCommands : ready.resetDue = none ∧ ready.mem.wf = true
    ∧ (ran (.setTime 99 12 31 7 23 59 59) ready).isSome = true ∧ (ran (.setAging 59) ready).isSome = true
    ∧ (0x07 ∉ Access.time.addresses ∧ ready.Untouched 0x07)
    ∧ (0x0F ∉ Access.aging.addresses ∧ ready.Untouched 0x0F) ∧ 0x11 ∉ Access.aging.addresses ∧ ready.Untouched 0x11 :=
  ⟨rfl, by decide, by decide, by decide, ⟨by decide, ready_untouched _⟩, ⟨by decide, ready_untouched _⟩, by decide,
    ready_untouched _⟩

theorem witness_FrameOfTheReadModifyWrites : ready.resetDue = none ∧ ready.mem.wf = true
    ∧ (∀ i ∈ [Instr.clearStatus 0xFF, .enable32khz false, .updateControl 0xFF, .clearControl 0xFF, .setSqwFreq 0xFF],
        (ran i ready).isSome = true)
    ∧ (0x0E ∉ Access.status.addresses ∧ ready.Untouched 0x0E) ∧ 0x0F ∉ Access.control.addresses ∧ ready.Untouched 0x0F :=
  ⟨rfl, by decide, by decide, ⟨by decide, ready_untouched _⟩, by decide, ready_untouched _⟩

theorem witness_FrameOfEnable32khz : ∃ t, (stopped []).resetDue = none ∧ (stopped []).mem.wf = true
    ∧ exec (.enable32khz true) (stopped []) = .next t ∧ ∀ a, (stopped []).Untouched a :=
  ⟨_, rfl, by decide, rfl, fun a k c hc => by
    rw [show (stopped []).turnAt k = Turn.mock from State.mock_turnAt rfl rfl k] at hc; exact absurd hc List.not_mem_nil⟩

end Sys2Proof.Tests
end

section
/-! SUPPORT. The BCD codec as arithmetic on bytes (R110, R111, R114), the words and payloads that carry one byte (R81, R91),
and the statements of spec file 40. -/

namespace Sys2Proof

/-- The word of a format B command: its byte below the opcode byte (R80, R81). -/
theorem word_byteOperand (op b : Byte) :
    (op ++ byteOperand b : Word64) = op ++ (0 : Field56) ||| b.setWidth 64 := by
  refine BitVec.eq_of_getLsbD_eq fun i hi => ?_
  rw [BitVec.getLsbD_or, getLsbD_word, getLsbD_word, getLsbD_byteOperand, BitVec.getLsbD_setWidth]
  by_cases h : i < 56
  · simp [h, hi]
  · simp [h, BitVec.getLsbD_of_ge b i (by omega)]

end Sys2Proof

namespace Sys2Proof.Machine

open Sys2Proof

/-! ## The payload of one byte -/

theorem bytePayload_eq_setWidth (b : Byte) : bytePayload b = b.setWidth 56 :=
  (BitVec.setWidth_eq_append (by decide)).symm

theorem bytePayload_eq_ofNat (b : Byte) : bytePayload b = BitVec.ofNat 56 b.toNat := by
  rw [bytePayload_eq_setWidth, BitVec.ofNat_toNat]

/-! ## The nibbles of a byte -/

theorem highNibble_toNat (b : Byte) : (b.extractLsb' 4 4).toNat = b.toNat / 16 := by
  rw [BitVec.extractLsb'_toNat, Nat.shiftRight_eq_div_pow]
  omega

theorem lowNibble_toNat (b : Byte) : (b.extractLsb' 0 4).toNat = b.toNat % 16 := by
  rw [BitVec.extractLsb'_toNat, Nat.shiftRight_zero]

/-! ## The codec -/

/-- Up to 99 neither digit is cut (R110). -/
theorem bcdEnc_toNat {d : Byte} (h : d.toNat ≤ 99) : (bcdEnc d).toNat = d.toNat / 10 * 16 + d.toNat % 10 := by
  have tens : (BitVec.ofNat 8 (d.toNat / 10) <<< 4).toNat = (d.toNat / 10) <<< 4 := by
    rw [BitVec.toNat_shiftLeft, BitVec.toNat_ofNat, Nat.shiftLeft_eq, Nat.shiftLeft_eq]
    omega
  have units : (BitVec.ofNat 8 (d.toNat % 10)).toNat = d.toNat % 10 := by
    rw [BitVec.toNat_ofNat]
    omega
  have disjoint : (d.toNat / 10) <<< 4 ||| d.toNat % 10 = (d.toNat / 10) <<< 4 + d.toNat % 10 :=
    (Nat.shiftLeft_add_eq_or_of_lt (by omega) _).symm
  rw [bcdEnc, BitVec.toNat_or, tens, units, disjoint, Nat.shiftLeft_eq]

/-- Nothing is cut, on any byte (R111). -/
theorem bcdDec_toNat (b : Byte) : (bcdDec b).toNat = b.toNat / 16 * 10 + b.toNat % 16 := by
  rw [bcdDec, BitVec.toNat_ofNat, highNibble_toNat, lowNibble_toNat]
  omega

theorem bcdDec_toNat_le (b : Byte) : (bcdDec b).toNat ≤ 165 := by
  rw [bcdDec_toNat]
  omega

/-- R114 (a). -/
theorem bcdDec_bcdEnc {d : Byte} (h : d.toNat ≤ 99) : bcdDec (bcdEnc d) = d := by
  refine BitVec.eq_of_toNat_eq ?_
  rw [bcdDec_toNat, bcdEnc_toNat h]
  omega

/-- R114 (b): a byte of two digits decodes to at most 99, inside the contract of `bcdEnc`. -/
theorem bcdEnc_bcdDec {b : Byte} (high : (b.extractLsb' 4 4).toNat ≤ 9) (low : (b.extractLsb' 0 4).toNat ≤ 9) :
    bcdEnc (bcdDec b) = b := by
  rw [highNibble_toNat] at high
  rw [lowNibble_toNat] at low
  have inContract : (bcdDec b).toNat ≤ 99 := by
    rw [bcdDec_toNat]
    omega
  refine BitVec.eq_of_toNat_eq ?_
  rw [bcdEnc_toNat inContract, bcdDec_toNat]
  omega

/-! ## BCD_DEC -/

/-- BCD_DEC with no reset due ends with the answer, whatever the byte (R113). -/
theorem exec_bcdDec_of_none {s : State} (h : s.resetDue = none) (b : Byte) :
    exec (.bcdDec b) s = .next (s.answer .success (bytePayload (bcdDec b))) :=
  congrArg Host.Outcome.next (State.respond_of_none h _)

end Sys2Proof.Machine

/-! ## The statements -/

namespace Sys2Proof.Proofs

open Sys2Proof Sys2Proof.Machine

/-- Settles O25: the two nibbles are read off the byte's number. -/
theorem bcdEncoderPlacesTheDigits : Obligations.BcdEncoderPlacesTheDigits := by
  intro d h
  rw [highNibble_toNat, lowNibble_toNat, bcdEnc_toNat h]
  omega

/-- Settles O26: injectivity on digits is the left inverse `bcdEnc` of R114 (b). -/
theorem bcdDecoderIsTotal : Obligations.BcdDecoderIsTotal := by
  refine ⟨fun b => ⟨?_, bcdDec_toNat_le b⟩, bcdDec_toNat 0xFF, bcdDec_toNat 0x0A, bcdDec_toNat 0x10, ?_⟩
  · rw [bcdDec_toNat, highNibble_toNat, lowNibble_toNat]
  · intro b c highB lowB highC lowC same
    rw [← bcdEnc_bcdDec highB lowB, same, bcdEnc_bcdDec highC lowC]

/-- Settles O27: both laws of R114, and at 0x0A its collision with 0x10 under the decoder. -/
theorem bcdCodecRoundTrips : Obligations.BcdCodecRoundTrips := by
  refine ⟨fun _ => bcdDec_bcdEnc, fun _ => bcdEnc_bcdDec, ?_⟩
  have collision : bcdDec 0x0A = bcdDec 0x10 := by decide
  rw [collision]
  exact bcdEnc_bcdDec (by decide) (by decide)

/-- Settles O29: the answer to BCD_DEC is built from the present state, in which nothing else moves. -/
theorem bcdDecAnswersTheDecimal : Obligations.BcdDecAnswersTheDecimal := by
  intro s b h
  refine ⟨word_byteOperand 0x11 b, _, exec_bcdDec_of_none h b, ?_, rfl, rfl, rfl⟩
  rw [State.answer_response, bytePayload_eq_ofNat, bcdDec_toNat]

end Sys2Proof.Proofs
end

section
/-! SUPPORT. How a command that is one transaction ends (R54, R55, R85, R207), said once over all of them; the word, the
checks and the arms of the time accessors; and the statements of spec file 41. -/

namespace Sys2Proof

/-- The word of a format T command: its seven bytes below the opcode byte, most significant first (R80, R81). -/
theorem word_sevenBytes (op a b c d e f g : Byte) :
    (op ++ sevenBytes a b c d e f g : Word64) = op ++ a ++ b ++ c ++ d ++ e ++ f ++ g := by
  refine BitVec.eq_of_toNat_eq ?_
  simp only [sevenBytes, BitVec.toNat_append, Nat.shiftLeft_or_distrib, ← Nat.shiftLeft_add, Nat.or_assoc]

end Sys2Proof

namespace Sys2Proof.Machine

open Sys2Proof

variable {s : State} {i : Instr}

/-! ## The end of a command with no reset due -/

/-- `t` is `s` after a `SUCCESS` answer with the payload `p`: idle, with the device and the bus as they were. -/
structure Succeeds (s : State) (p : Field56) (t : State) : Prop where
  response : t.response = some { code := .success, payload := p }
  phase : t.phase = .idle
  mem : t.mem = s.mem
  bus : t.bus = s.bus

theorem succeeds_respond (h : s.resetDue = none) (p : Field56) : Succeeds s p (s.respond p) := by
  rw [State.respond_of_none h]
  exact ⟨rfl, rfl, rfl, rfl⟩

/-- `t` is `s` after the code `c` was raised: idle, with the device, the bus and the coming turns as they were. -/
structure Fails (s : State) (c : ResultCode) (t : State) : Prop where
  code : t.code = some c
  phase : t.phase = .idle
  mem : t.mem = s.mem
  bus : t.bus = s.bus
  script : t.script = s.script

theorem fails_raise (h : s.resetDue = none) (c : ResultCode) : Fails s c (s.raise c) := by
  rw [State.raise_of_none h]
  exact ⟨rfl, rfl, rfl, rfl, rfl⟩

/-! ## The three shapes of a command of at most one transaction -/

/-- A command whose check fails issues nothing (R209). -/
theorem rejectsUntouched_of_exec (h : s.resetDue = none) (run : exec i s = .next (s.raise .invalidParam)) :
    RejectsUntouched i s :=
  have f := fails_raise h .invalidParam
  ⟨_, run, f.code, f.phase, f.bus, f.mem, f.script⟩

/-- A command that reads one run and then only answers is one read. -/
theorem oneRead_of_exec (h : s.resetDue = none) {r : Access} {code : TransportFailure → ResultCode}
    {k : List Byte → State → State} {payload : List Byte → Field56}
    (run : exec i s = .next ((memRead r s).andThen code k))
    (answers : ∀ v t, t.resetDue = none → Succeeds t (payload v) (k v t)) : OneRead i s r code payload := by
  have now := State.resetNow_of_none h
  refine ⟨fun f failed => ?_, fun ok => ?_⟩
  · rw [memRead_of_failed r now failed] at run
    have e := fails_raise (s := s.completed (.read r.addr r.len (.failed f) []) s.devNow) h (code f)
    exact ⟨_, run, e.code, e.phase, e.mem, e.bus⟩
  · rw [memRead_of_ok r now ok] at run
    have e := answers (s.devNow.readRun r.addr r.len)
      (s.completed (.read r.addr r.len .ok (s.devNow.readRun r.addr r.len)) (s.devNow.own (s.turnAt 0).after)) h
    exact ⟨_, run, e.response, e.phase, e.mem, e.bus⟩

/-- A command that writes one run and then answers with no payload is one write. -/
theorem oneWrite_of_exec (h : s.resetDue = none) {r : Access} {v : List Byte}
    (run : exec i s = .next (writeBytes r v s fun s => s.respond 0)) : OneWrite i s r v := by
  have now := State.resetNow_of_none h
  refine ⟨fun f failed => ?_, fun ok => ?_⟩
  · rw [writeBytes, memWrite_of_failed r v now failed] at run
    have e := fails_raise
      (s := (s.setWbuf (writeBuffer r v)).completed (.write (writeBuffer r v) (v.length + 1) (.failed f)) s.devNow)
      h (propagate f)
    exact ⟨_, run, e.code, e.phase, e.mem, e.bus⟩
  · rw [writeBytes, memWrite_of_ok r v now ok] at run
    have e := succeeds_respond
      (s := (s.setWbuf (writeBuffer r v)).completed (.write (writeBuffer r v) (v.length + 1) .ok)
        ((s.devNow.writeRun r.addr v).own (s.turnAt 0).after)) h 0
    exact ⟨_, run, e.response, e.phase, e.mem, e.bus⟩

/-! ## READ_TIME -/

/-- Without a destination READ_TIME is rejected (R85, R120). -/
theorem exec_readTime_false (s : State) : exec (.readTime false) s = .next (s.raise .invalidParam) := rfl

/-- With a destination READ_TIME is one read of the time registers (R120). -/
theorem exec_readTime_true (s : State) :
    exec (.readTime true) s = .next ((memRead .time s).andThen propagate fun v s =>
      (s.setRbuf v).respond (TimeRecord.ofRegisters v).payload) := rfl

/-! ## SET_TIME -/

/-- The check of SET_TIME is the ten bounds of R121. -/
theorem TimeRecord.valid_iff (t : TimeRecord) :
    t.valid = true ↔ t.seconds.toNat ≤ 59 ∧ t.minutes.toNat ≤ 59 ∧ t.hours.toNat ≤ 23 ∧ 1 ≤ t.weekday.toNat
      ∧ t.weekday.toNat ≤ 7 ∧ 1 ≤ t.date.toNat ∧ t.date.toNat ≤ 31 ∧ 1 ≤ t.month.toNat ∧ t.month.toNat ≤ 12
      ∧ t.year.toNat ≤ 99 := by
  simp only [TimeRecord.valid, Bool.and_eq_true, decide_eq_true_eq, and_assoc]

/-- SET_TIME of the fields of a record. -/
def TimeRecord.setTime (t : TimeRecord) : Instr :=
  .setTime t.year t.month t.date t.weekday t.hours t.minutes t.seconds

/-- A record outside the ranges is rejected before any bus activity (R121). -/
theorem exec_setTime_of_invalid {t : TimeRecord} (h : ¬ t.valid = true) (s : State) :
    exec t.setTime s = .next (s.raise .invalidParam) := congrArg Host.Outcome.next (if_neg h)

/-- A record inside the ranges is written in one transaction (R121). -/
theorem exec_setTime_of_valid {t : TimeRecord} (h : t.valid = true) (s : State) :
    exec t.setTime s = .next (writeBytes .time t.registers s fun s => s.respond 0) :=
  congrArg Host.Outcome.next (if_pos h)

end Sys2Proof.Machine

/-! ## The statements -/

namespace Sys2Proof.Proofs

open Sys2Proof Sys2Proof.Machine

/-- Settles O30: without `dp` the command is rejected; with it, it is one read that ends by answering the decoded bytes. -/
theorem readTimeAnswersTheDecodedRegisters : Obligations.ReadTimeAnswersTheDecodedRegisters := by
  intro s dp h
  refine ⟨by cases dp <;> rfl, ?_, ?_⟩
  · rintro rfl
    exact rejectsUntouched_of_exec h (exec_readTime_false s)
  · rintro rfl
    refine oneRead_of_exec h (exec_readTime_true s) fun v t ht => ?_
    have e := succeeds_respond (s := t.setRbuf v) ht (TimeRecord.ofRegisters v).payload
    exact ⟨e.response, e.phase, e.mem, e.bus⟩

/-- Settles O31: the check of the record decides between the rejection and the one write. -/
theorem setTimeChecksThenWritesSevenRegisters : Obligations.SetTimeChecksThenWritesSevenRegisters := by
  intro s year month date weekday hour minute second h
  let t : TimeRecord := ⟨year, month, date, weekday, hour, minute, second⟩
  refine ⟨word_sevenBytes 0x21 year month date weekday hour minute second, fun outside => ?_, ?_⟩
  · have invalid : ¬ t.valid = true := fun valid => outside (t.valid_iff.1 valid)
    exact rejectsUntouched_of_exec h (exec_setTime_of_invalid invalid s)
  · intro hSecond hMinute hHour hWeekday hWeekday' hDate hDate' hMonth hMonth' hYear
    have valid : t.valid = true :=
      t.valid_iff.2 ⟨hSecond, hMinute, hHour, hWeekday, hWeekday', hDate, hDate', hMonth, hMonth', hYear⟩
    exact oneWrite_of_exec h (exec_setTime_of_valid valid s)

end Sys2Proof.Proofs
end

section
/-! SUPPORT. The temperature decoder as a 10-bit two's-complement number (R131), the arms of GET_TEMP (R130), and the
statements of spec file 42. -/

namespace Sys2Proof.Machine

open Sys2Proof

/-! ## The decoder -/

theorem signed8_eq_toInt (b : Byte) : signed8 b = b.toInt := by
  rw [signed8, BitVec.toInt_eq_toNat_cond]
  by_cases h : b.toNat < 128
  · rw [if_pos h, if_pos (by omega)]
  · rw [if_neg h, if_neg (by omega)]
    rfl

/-- The 10-bit number `{msb, lsb[7:6]}` (R131). -/
def quarters (msb lsb : Byte) : BitVec 10 := msb ++ lsb.extractLsb' 6 2

theorem tempDec_eq_toInt (msb lsb : Byte) : tempDec msb lsb = (quarters msb lsb).toInt := by
  rw [tempDec, signed8_eq_toInt, quarters, BitVec.toInt_append]
  rfl

theorem topBits_toNat (b : Byte) : (b.extractLsb' 6 2).toNat = b.toNat / 64 := by
  rw [BitVec.extractLsb'_toNat, Nat.shiftRight_eq_div_pow]
  omega

/-- The mask 0xC0 keeps `lsb[7:6]`. -/
theorem topBits_and (b : Byte) : (b &&& 0xC0).extractLsb' 6 2 = b.extractLsb' 6 2 := by
  have kept : BitVec.extractLsb' 6 2 (0xC0 : Byte) = BitVec.allOnes 2 := by decide
  rw [BitVec.extractLsb'_and, kept, BitVec.and_allOnes]

/-- The 10-bit number sign-extended to 16 bits, zeros above (R91). -/
theorem tempPayload_toInt (x : BitVec 10) : tempPayload x.toInt = (x.signExtend 16).setWidth 56 :=
  (BitVec.setWidth_eq_append (by decide)).symm

/-! ## GET_TEMP -/

/-- Every failed transaction of GET_TEMP is `ERROR` (R204). -/
theorem collapse_eq_error : collapse = fun _ => .error := by
  funext f
  cases f <;> rfl

/-- Without a destination GET_TEMP is rejected (R85, R130). -/
theorem exec_getTemp_false (s : State) : exec (.getTemp false) s = .next (s.raise .invalidParam) := rfl

/-- With a destination GET_TEMP is one read of the temperature registers (R130). -/
theorem exec_getTemp_true (s : State) :
    exec (.getTemp true) s = .next ((memRead .temp s).andThen collapse fun v s =>
      (s.setRbuf v).respond (tempPayload (tempDec (byteAt v 0) (byteAt v 1)))) := rfl

end Sys2Proof.Machine

/-! ## The statements -/

namespace Sys2Proof.Proofs

open Sys2Proof Sys2Proof.Machine

/-- Settles O34: the range is the one of a 10-bit number, and the mask keeps the two bits the decoder reads. -/
theorem temperatureIsATenBitNumber : Obligations.TemperatureIsATenBitNumber := by
  intro msb lsb
  have same := tempDec_eq_toInt msb lsb
  refine ⟨?_, same, same ▸ BitVec.le_toInt _, ?_, ?_⟩
  · rw [tempDec, topBits_toNat]
    rfl
  · have := BitVec.toInt_lt (x := quarters msb lsb)
    omega
  · rw [tempDec, tempDec, topBits_and]

/-- Settles O35: without `dp` the command is rejected; with it, it is one read whose every failure is collapsed, and the
answer to a success is the decoder's number. -/
theorem getTempAnswersQuarterUnits : Obligations.GetTempAnswersQuarterUnits := by
  intro s dp h
  refine ⟨by cases dp <;> rfl, ?_, ?_⟩
  · rintro rfl
    exact rejectsUntouched_of_exec h (exec_getTemp_false s)
  · rintro rfl
    rw [← collapse_eq_error]
    refine oneRead_of_exec h (exec_getTemp_true s) fun v t ht => ?_
    rw [tempDec_eq_toInt, tempPayload_toInt]
    have e := succeeds_respond (s := t.setRbuf v) ht (((quarters (byteAt v 0) (byteAt v 1)).signExtend 16).setWidth 56)
    exact ⟨e.response, e.phase, e.mem, e.bus⟩

end Sys2Proof.Proofs
end

section
/-! SUPPORT. A state inside a command, described from the state the command began in, and what one more transaction or the
end of the command makes of it (R54, R55, R207), for the commands of more than one transaction; the passthrough reads of one
register (R85, R91); and the statements of spec file 43. -/

namespace Sys2Proof.Machine

open Sys2Proof

variable {s u : State} {i : Instr} {r : Access}

/-! ## A state inside a command -/

/-- `u` is met inside a command begun at `s` with no reset due: the transactions `pre` are behind it, the device is at `dev`,
and the `k`-th turn of the environment comes next. -/
structure Midway (s : State) (k : Nat) (dev : Memory) (pre : List Transaction) (u : State) : Prop where
  resetDue : u.resetDue = none
  mem : u.mem = dev
  bus : u.bus = s.bus ++ pre
  masks : u.masks = s.masks
  turnAt : ∀ n, u.turnAt n = s.turnAt (k + n)

/-- Before its first transaction a command is where it began. -/
theorem midway_start (h : s.resetDue = none) : Midway s 0 s.mem [] s where
  resetDue := h
  mem := rfl
  bus := (List.append_nil _).symm
  masks := rfl
  turnAt n := by rw [Nat.zero_add]

namespace Midway

variable {k : Nat} {dev : Memory} {pre : List Transaction}

theorem setLatch (m : Midway s k dev pre u) (b : Byte) : Midway s k dev pre (u.setLatch b) :=
  ⟨m.resetDue, m.mem, m.bus, m.masks, m.turnAt⟩

theorem setWbuf (m : Midway s k dev pre u) (v : List Byte) : Midway s k dev pre (u.setWbuf v) :=
  ⟨m.resetDue, m.mem, m.bus, m.masks, m.turnAt⟩

/-- A transaction moves the environment on by one turn, and leaves the device as given. -/
theorem completed (m : Midway s k dev pre u) (x : Transaction) (dev' : Memory) :
    Midway s (k + 1) dev' (pre ++ [x]) (u.completed x dev') where
  resetDue := m.resetDue
  mem := rfl
  bus := by rw [State.completed_bus, m.bus, List.append_assoc]
  masks := m.masks
  turnAt n := by rw [State.completed_turnAt, m.turnAt, Nat.add_right_comm, Nat.add_assoc]

theorem devNow (m : Midway s k dev pre u) : u.devNow = dev.own (s.turnAt k).before := by
  rw [State.devNow, m.mem, m.turnAt, Nat.add_zero]

/-! ### One more transaction -/

/-- A failed one-register read raises the code of its status (R54, R207). -/
theorem readByte_of_failed (m : Midway s k dev pre u) (len : r.len = 1) {f : TransportFailure}
    (failed : (s.turnAt k).status = .failed f) (next : Byte → State → State) :
    ∃ v, readByte r u next = v.raise (propagate f)
      ∧ Midway s (k + 1) (dev.own (s.turnAt k).before) (pre ++ [.read r.addr 1 (.failed f) []]) v := by
  have now := State.resetNow_of_none m.resetDue
  refine ⟨_, ?_, m.completed _ _⟩
  rw [readByte, memRead_of_failed r now (f := f) (by rw [m.turnAt]; exact failed), m.devNow, len]
  rfl

/-- After an `OK` one-register read the command goes on with the byte the device held (R54). -/
theorem readByte_of_ok (m : Midway s k dev pre u) (len : r.len = 1) (ok : (s.turnAt k).status = .ok)
    (next : Byte → State → State) :
    ∃ v, readByte r u next = next ((dev.own (s.turnAt k).before).read r.addr) v
      ∧ Midway s (k + 1) ((dev.own (s.turnAt k).before).own (s.turnAt k).after)
        (pre ++ [.read r.addr 1 .ok [(dev.own (s.turnAt k).before).read r.addr]]) v := by
  have now := State.resetNow_of_none m.resetDue
  refine ⟨_, ?_, m.completed _ _⟩
  rw [readByte, memRead_of_ok r now (by rw [m.turnAt]; exact ok), m.devNow, readRun_one _ len, len, m.turnAt, Nat.add_zero]
  rfl

/-- A failed write stores nothing and raises the code of its status (R55, R63, R207). -/
theorem writeBytes_of_failed (m : Midway s k dev pre u) (bytes : List Byte) {f : TransportFailure}
    (failed : (s.turnAt k).status = .failed f) (next : State → State) :
    ∃ v, writeBytes r bytes u next = v.raise (propagate f)
      ∧ Midway s (k + 1) (dev.own (s.turnAt k).before)
        (pre ++ [.write (writeBuffer r bytes) (bytes.length + 1) (.failed f)]) v := by
  have now := State.resetNow_of_none m.resetDue
  refine ⟨_, ?_, (m.setWbuf (writeBuffer r bytes)).completed _ _⟩
  rw [writeBytes, memWrite_of_failed r bytes now (f := f) (by rw [m.turnAt]; exact failed), m.devNow]
  rfl

/-- After an `OK` write the command goes on with the bytes stored (R55). -/
theorem writeBytes_of_ok (m : Midway s k dev pre u) (bytes : List Byte) (ok : (s.turnAt k).status = .ok)
    (next : State → State) :
    ∃ v, writeBytes r bytes u next = next v
      ∧ Midway s (k + 1) (((dev.own (s.turnAt k).before).writeRun r.addr bytes).own (s.turnAt k).after)
        (pre ++ [.write (writeBuffer r bytes) (bytes.length + 1) .ok]) v := by
  have now := State.resetNow_of_none m.resetDue
  refine ⟨_, ?_, (m.setWbuf (writeBuffer r bytes)).completed _ _⟩
  rw [writeBytes, memWrite_of_ok r bytes now (by rw [m.turnAt]; exact ok), m.devNow, m.turnAt, Nat.add_zero]
  rfl

/-! ### The end of the command -/

/-- A command that raises a code here ends with it, what is done so far standing (R207). -/
theorem ends_of_raise (m : Midway s k dev pre u) {c : ResultCode} (run : exec i s = .next (u.raise c)) :
    ∃ t, exec i s = .next t ∧ t.code = some c ∧ t.phase = .idle ∧ t.mem = dev ∧ t.bus = s.bus ++ pre :=
  have e := fails_raise m.resetDue c
  ⟨_, run, e.code, e.phase, e.mem.trans m.mem, e.bus.trans m.bus⟩

/-- A command that responds here ends with `SUCCESS`. -/
theorem ends_of_respond (m : Midway s k dev pre u) {p : Field56} (run : exec i s = .next (u.respond p)) :
    ∃ t, exec i s = .next t ∧ t.response = some { code := .success, payload := p } ∧ t.phase = .idle ∧ t.mem = dev
      ∧ t.bus = s.bus ++ pre :=
  have e := succeeds_respond m.resetDue p
  ⟨_, run, e.response, e.phase, e.mem.trans m.mem, e.bus.trans m.bus⟩

/-! ### The read-modify-write engine -/

/-- After an `OK` read the engine is one write of the byte read, edited (R68, R240). -/
theorem readModifyWrite_of_ok (m : Midway s k dev pre u) (len : r.len = 1) (ok : (s.turnAt k).status = .ok)
    (edit : Byte → Byte) :
    ∃ v, readModifyWrite r edit u
        = writeBytes r [edit ((dev.own (s.turnAt k).before).read r.addr)] v (fun s => s.respond 0)
      ∧ Midway s (k + 1) ((dev.own (s.turnAt k).before).own (s.turnAt k).after)
        (pre ++ [.read r.addr 1 .ok [(dev.own (s.turnAt k).before).read r.addr]]) v := by
  obtain ⟨v, toWrite, mv⟩ := m.readByte_of_ok len ok _
  exact ⟨_, toWrite, mv.setLatch _⟩

/-- A command that goes on here with the read-modify-write engine is, from here on, one read and one write. -/
theorem readThenWriteFrom (m : Midway s k dev pre u) (len : r.len = 1) {edit : Byte → Byte}
    (run : exec i s = .next (readModifyWrite r edit u)) : ReadThenWriteFrom k dev pre i s r edit := by
  refine ⟨fun f readFailed => ?_, fun readOk f writeFailed => ?_, fun readOk writeOk => ?_⟩
  · obtain ⟨v, toRaise, mv⟩ := m.readByte_of_failed len readFailed _
    exact mv.ends_of_raise (run.trans (congrArg _ toRaise))
  · obtain ⟨v, toWrite, mv⟩ := m.readModifyWrite_of_ok len readOk edit
    obtain ⟨w, toRaise, mw⟩ := mv.writeBytes_of_failed _ writeFailed _
    rw [List.append_assoc] at mw
    exact mw.ends_of_raise (run.trans (congrArg _ (toWrite.trans toRaise)))
  · obtain ⟨v, toWrite, mv⟩ := m.readModifyWrite_of_ok len readOk edit
    obtain ⟨w, toRespond, mw⟩ := mv.writeBytes_of_ok _ writeOk _
    rw [List.append_assoc] at mw
    exact mw.ends_of_respond (run.trans (congrArg _ (toWrite.trans toRespond)))

end Midway

/-- A command that is the read-modify-write engine is one read and one write of the byte read, edited (R68, R240). -/
theorem readThenWrite_of_exec (h : s.resetDue = none) (len : r.len = 1) {edit : Byte → Byte}
    (run : exec i s = .next (readModifyWrite r edit s)) : ReadThenWrite i s r edit :=
  (midway_start h).readThenWriteFrom len run

/-! ## The passthrough reads of one register -/

/-- Without a destination a passthrough read is rejected (R85). -/
theorem getByte_false (r : Access) (s : State) : getByte r false s = s.raise .invalidParam := rfl

/-- With a destination a passthrough read is one read, answered with its byte. -/
theorem getByte_true (r : Access) (s : State) :
    getByte r true s = (memRead r s).andThen propagate fun v s => s.respond (bytePayload (byteAt v 0)) := rfl

/-- A command that is a passthrough read with its destination absent issues nothing (R85, R209). -/
theorem rejectsUntouched_of_getByte (h : s.resetDue = none) (run : exec i s = .next (getByte r false s)) :
    RejectsUntouched i s := by
  rw [getByte_false] at run
  exact rejectsUntouched_of_exec h run

/-- A command that is a passthrough read answers the byte read, zeros above it (R91). -/
theorem oneRead_of_getByte (h : s.resetDue = none) (run : exec i s = .next (getByte r true s)) :
    OneRead i s r propagate fun v => (byteAt v 0).setWidth 56 := by
  rw [getByte_true] at run
  refine oneRead_of_exec h run fun v t ht => ?_
  rw [bytePayload_eq_setWidth]
  exact succeeds_respond ht _

/-! ## STATUS -/

/-- GET_STATUS is the passthrough read of STATUS (R140). -/
theorem exec_getStatus (dp : Bool) (s : State) : exec (.getStatus dp) s = .next (getByte .status dp s) := rfl

/-- CLEAR_STATUS is the read-modify-write of STATUS that clears the mask's bits (R141). -/
theorem exec_clearStatus (mask : Byte) (s : State) :
    exec (.clearStatus mask) s = .next (readModifyWrite .status (clearBits mask) s) := rfl

end Sys2Proof.Machine

/-! ## The statements -/

namespace Sys2Proof.Proofs

open Sys2Proof Sys2Proof.Machine

/-- Settles O36: without `dp` the command is rejected; with it, it is the one read of a passthrough read. -/
theorem getStatusAnswersTheRawByte : Obligations.GetStatusAnswersTheRawByte := by
  intro s dp h
  refine ⟨by cases dp <;> rfl, ?_, ?_⟩
  · rintro rfl
    exact rejectsUntouched_of_getByte h (exec_getStatus false s)
  · rintro rfl
    exact oneRead_of_getByte h (exec_getStatus true s)

/-- Settles O37: the command is the read-modify-write engine, whose edit clears the mask's bits of the byte read. -/
theorem clearStatusClearsTheMaskedBits : Obligations.ClearStatusClearsTheMaskedBits := by
  intro s mask h
  exact ⟨word_byteOperand 0x41 mask, readThenWrite_of_exec h rfl (exec_clearStatus mask s)⟩

end Sys2Proof.Proofs
end

section
/-! SUPPORT. The arms of the CONTROL accessors, and the statements of spec file 44. -/

namespace Sys2Proof.Machine

open Sys2Proof

/-! ## CONTROL -/

/-- GET_CONTROL is the passthrough read of CONTROL (R150). -/
theorem exec_getControl (dp : Bool) (s : State) : exec (.getControl dp) s = .next (getByte .control dp s) := rfl

/-- UPDATE_CONTROL is the read-modify-write of CONTROL that sets the mask's bits (R151). -/
theorem exec_updateControl (mask : Byte) (s : State) :
    exec (.updateControl mask) s = .next (readModifyWrite .control (setBits mask) s) := rfl

/-- CLEAR_CONTROL is the read-modify-write of CONTROL that clears the mask's bits (R152). -/
theorem exec_clearControl (mask : Byte) (s : State) :
    exec (.clearControl mask) s = .next (readModifyWrite .control (clearBits mask) s) := rfl

end Sys2Proof.Machine

/-! ## The statements -/

namespace Sys2Proof.Proofs

open Sys2Proof Sys2Proof.Machine

/-- Settles O38: without `dp` the command is rejected; with it, it is the one read of a passthrough read. -/
theorem getControlAnswersTheRawByte : Obligations.GetControlAnswersTheRawByte := by
  intro s dp h
  refine ⟨by cases dp <;> rfl, ?_, ?_⟩
  · rintro rfl
    exact rejectsUntouched_of_getByte h (exec_getControl false s)
  · rintro rfl
    exact oneRead_of_getByte h (exec_getControl true s)

/-- Settles O39: the command is the read-modify-write engine, whose edit sets the mask's bits in the byte read. -/
theorem updateControlSetsTheMaskedBits : Obligations.UpdateControlSetsTheMaskedBits := by
  intro s mask h
  exact ⟨word_byteOperand 0x51 mask, readThenWrite_of_exec h rfl (exec_updateControl mask s)⟩

/-- Settles O40: the command is the read-modify-write engine, whose edit clears the mask's bits of the byte read. -/
theorem clearControlClearsTheMaskedBits : Obligations.ClearControlClearsTheMaskedBits := by
  intro s mask h
  exact ⟨word_byteOperand 0x52 mask, readThenWrite_of_exec h rfl (exec_clearControl mask s)⟩

end Sys2Proof.Proofs
end

section
/-! SUPPORT. The arms of ENABLE_32KHZ, how its oscillator step goes on after an `OK` read (R160, steps 1 and 2), its output
step as the read-modify-write engine (steps 3 and 4), and the statement of spec file 45. -/

namespace Sys2Proof.Machine

open Sys2Proof

/-! ## The arms -/

/-- Disabling is the read-modify-write of STATUS that clears `EN32K`; CONTROL is not touched (R160). -/
theorem exec_enable32khz_false (s : State) :
    exec (.enable32khz false) s = .next (readModifyWrite .status (clearBits s.masks.en32k) s) := rfl

/-- Enabling turns the oscillator on and then switches the output on (R160). -/
theorem exec_enable32khz_true (s : State) : exec (.enable32khz true) s = .next (oscillatorOn s (switchOutput true)) := rfl

/-- Switching the output on is the read-modify-write of STATUS that sets `EN32K` (R160, steps 3 and 4). -/
theorem switchOutput_true (s : State) : switchOutput true s = readModifyWrite .status (setBits s.masks.en32k) s := rfl

/-! ## The oscillator step -/

theorem fieldSet_iff {mask b : Byte} : fieldSet mask b = true ↔ b &&& mask ≠ 0 := bne_iff_ne

namespace Midway

variable {s u : State} {k : Nat} {dev : Memory} {pre : List Transaction}

/-- After an `OK` read of CONTROL the oscillator step goes on by the test of `EOSC` in the byte read (R160, step 2). -/
theorem oscillatorOn_of_ok (m : Midway s k dev pre u) (ok : (s.turnAt k).status = .ok) (next : State → State) :
    ∃ v, oscillatorOn u next
        = (if fieldSet s.masks.eosc ((dev.own (s.turnAt k).before).read 0x0E)
            then writeBytes .control [clearBits s.masks.eosc ((dev.own (s.turnAt k).before).read 0x0E)] v next
            else next v)
      ∧ Midway s (k + 1) ((dev.own (s.turnAt k).before).own (s.turnAt k).after)
        (pre ++ [.read 0x0E 1 .ok [(dev.own (s.turnAt k).before).read 0x0E]]) v := by
  obtain ⟨v, goesOn, mv⟩ := m.readByte_of_ok (r := .control) rfl ok _
  refine ⟨_, ?_, mv.setLatch ((dev.own (s.turnAt k).before).read 0x0E)⟩
  rw [← mv.masks]
  exact goesOn

/-- With `EOSC` clear in the byte read, CONTROL is not written back (R160, step 2). -/
theorem oscillatorOn_of_clear (m : Midway s k dev pre u) (ok : (s.turnAt k).status = .ok)
    (clear : (dev.own (s.turnAt k).before).read 0x0E &&& s.masks.eosc = 0) (next : State → State) :
    ∃ v, oscillatorOn u next = next v
      ∧ Midway s (k + 1) ((dev.own (s.turnAt k).before).own (s.turnAt k).after)
        (pre ++ [.read 0x0E 1 .ok [(dev.own (s.turnAt k).before).read 0x0E]]) v := by
  obtain ⟨v, goesOn, mv⟩ := m.oscillatorOn_of_ok ok next
  rw [if_neg fun isSet => fieldSet_iff.mp isSet clear] at goesOn
  exact ⟨v, goesOn, mv⟩

/-- With `EOSC` set in the byte read, CONTROL is written back with it cleared (R160, step 2). -/
theorem oscillatorOn_of_set (m : Midway s k dev pre u) (ok : (s.turnAt k).status = .ok)
    (set : (dev.own (s.turnAt k).before).read 0x0E &&& s.masks.eosc ≠ 0) (next : State → State) :
    ∃ v, oscillatorOn u next
        = writeBytes .control [clearBits s.masks.eosc ((dev.own (s.turnAt k).before).read 0x0E)] v next
      ∧ Midway s (k + 1) ((dev.own (s.turnAt k).before).own (s.turnAt k).after)
        (pre ++ [.read 0x0E 1 .ok [(dev.own (s.turnAt k).before).read 0x0E]]) v := by
  obtain ⟨v, goesOn, mv⟩ := m.oscillatorOn_of_ok ok next
  rw [if_pos (fieldSet_iff.mpr set)] at goesOn
  exact ⟨v, goesOn, mv⟩

/-! ## The output step -/

/-- A command that goes on here by switching the output on is, from here on, the read and the write of STATUS. -/
theorem readThenWriteFrom_of_switchOutput {i : Instr} (m : Midway s k dev pre u)
    (run : exec i s = .next (switchOutput true u)) : ReadThenWriteFrom k dev pre i s .status (setBits s.masks.en32k) := by
  rw [switchOutput_true, m.masks] at run
  exact m.readThenWriteFrom rfl run

end Midway

end Sys2Proof.Machine

/-! ## The statement -/

namespace Sys2Proof.Proofs

open Sys2Proof Sys2Proof.Machine

/-- Settles O42: disabling is the read-modify-write engine on STATUS; enabling goes through the oscillator step, which either
raises a code, or hands over to that engine with one or two transactions behind it. -/
theorem enable32khzFollowsItsTransactionPlan : Obligations.Enable32khzFollowsItsTransactionPlan := by
  intro s h
  have start := midway_start h
  have run := exec_enable32khz_true s
  refine ⟨rfl, rfl, readThenWrite_of_exec h rfl (exec_enable32khz_false s), fun f readFailed => ?_, fun readOk clear => ?_,
    fun readOk set f writeFailed => ?_, fun readOk set writeOk => ?_⟩
  · obtain ⟨v, toRaise, mv⟩ := start.readByte_of_failed (r := .control) rfl readFailed _
    exact mv.ends_of_raise (run.trans (congrArg _ toRaise))
  · obtain ⟨v, toOutput, mv⟩ := start.oscillatorOn_of_clear readOk clear _
    exact mv.readThenWriteFrom_of_switchOutput (run.trans (congrArg _ toOutput))
  · obtain ⟨v, toWrite, mv⟩ := start.oscillatorOn_of_set readOk set _
    obtain ⟨w, toRaise, mw⟩ := mv.writeBytes_of_failed _ writeFailed _
    exact mw.ends_of_raise (run.trans (congrArg _ (toWrite.trans toRaise)))
  · obtain ⟨v, toWrite, mv⟩ := start.oscillatorOn_of_set readOk set _
    obtain ⟨w, toOutput, mw⟩ := mv.writeBytes_of_ok _ writeOk _
    exact mw.readThenWriteFrom_of_switchOutput (run.trans (congrArg _ (toWrite.trans toOutput)))

end Sys2Proof.Proofs
end

section
/-! SUPPORT. The edit of SET_SQW_FREQ as the one expression of R170, its arm, and the statement of spec file 46. -/

namespace Sys2Proof.Machine

open Sys2Proof

/-- Clearing two masks one after the other clears their union. -/
theorem clearBits_clearBits (m m' b : Byte) : clearBits m' (clearBits m b) = clearBits (m ||| m') b := by
  rw [clearBits, clearBits, clearBits, BitVec.and_assoc, ← BitVec.not_or]

/-- The write-back of SET_SQW_FREQ in one expression (R170). -/
theorem editRate_eq (m : Masks) (rsBits b : Byte) :
    editRate m rsBits b = (b &&& ~~~(m.eosc ||| m.intcn ||| m.rsMask)) ||| (rsBits &&& m.rsMask) := by
  rw [editRate, clearBits_clearBits, clearBits_clearBits, clearBits, BitVec.or_assoc]

/-- SET_SQW_FREQ is the read-modify-write of CONTROL whose edit is `editRate` (R170). -/
theorem exec_setSqwFreq (rsBits : Byte) (s : State) :
    exec (.setSqwFreq rsBits) s = .next (readModifyWrite .control (editRate s.masks rsBits) s) := rfl

end Sys2Proof.Machine

/-! ## The statement -/

namespace Sys2Proof.Proofs

open Sys2Proof Sys2Proof.Machine

/-- Settles O45: the command is the read-modify-write engine, whose edit is the one expression of R170. -/
theorem setSqwFreqRewritesControl : Obligations.SetSqwFreqRewritesControl := by
  intro s rs h
  have run := exec_setSqwFreq rs s
  rw [funext (editRate_eq s.masks rs)] at run
  exact ⟨word_byteOperand 0x70 rs, readThenWrite_of_exec h rfl run⟩

end Sys2Proof.Proofs
end

section
/-! SUPPORT. The arms of the aging register accessors, and the statements of spec file 47. -/

namespace Sys2Proof.Machine

open Sys2Proof

/-- SET_AGING is one write of AGING, the byte as given (R180). -/
theorem exec_setAging (offset : Byte) (s : State) :
    exec (.setAging offset) s = .next (writeBytes .aging [offset] s fun s => s.respond 0) := rfl

/-- GET_AGING is the passthrough read of AGING (R181). -/
theorem exec_getAging (dp : Bool) (s : State) : exec (.getAging dp) s = .next (getByte .aging dp s) := rfl

end Sys2Proof.Machine

/-! ## The statements -/

namespace Sys2Proof.Proofs

open Sys2Proof Sys2Proof.Machine

/-- Settles O47: the command is one write that then answers with no payload. -/
theorem setAgingWritesTheByteAsGiven : Obligations.SetAgingWritesTheByteAsGiven := by
  intro s offset h
  exact ⟨word_byteOperand 0x80 offset, oneWrite_of_exec h (exec_setAging offset s)⟩

/-- Settles O48: without `dp` the command is rejected; with it, it is the one read of a passthrough read. -/
theorem getAgingAnswersTheRawByte : Obligations.GetAgingAnswersTheRawByte := by
  intro s dp h
  cases dp with
  | false => exact ⟨rfl, fun _ => rejectsUntouched_of_getByte h (exec_getAging false s), nofun⟩
  | true => exact ⟨rfl, nofun, fun _ => oneRead_of_getByte h (exec_getAging true s)⟩

end Sys2Proof.Proofs
end

section
/-! SUPPORT. Encoding and decoding as inverses of each other, the opcode table as masks and matches of words cut after their
opcode byte, the text of a command, and the statements of spec file 30. -/

namespace Sys2Proof

/-! ## Decoding an encoding -/

/-- Every encoding is legal: its opcode byte is listed and its reserved bits are 0 (R84, R86). -/
theorem encodeLegal : ∀ i : Instr, Laws.EncodeLegal.Statement i
  | .bcdEnc d => Laws.EncodeLegal.bcdEnc d
  | .bcdDec b => Laws.EncodeLegal.bcdDec b
  | .readTime dp => Laws.EncodeLegal.readTime dp
  | .setTime year month date weekday hour minute second =>
    Laws.EncodeLegal.setTime year month date weekday hour minute second
  | .getTemp dp => Laws.EncodeLegal.getTemp dp
  | .getStatus dp => Laws.EncodeLegal.getStatus dp
  | .clearStatus mask => Laws.EncodeLegal.clearStatus mask
  | .getControl dp => Laws.EncodeLegal.getControl dp
  | .updateControl mask => Laws.EncodeLegal.updateControl mask
  | .clearControl mask => Laws.EncodeLegal.clearControl mask
  | .enable32khz en => Laws.EncodeLegal.enable32khz en
  | .setSqwFreq rsBits => Laws.EncodeLegal.setSqwFreq rsBits
  | .setAging offset => Laws.EncodeLegal.setAging offset
  | .getAging dp => Laws.EncodeLegal.getAging dp

/-- The operands are read back from the word of a command (R82). -/
theorem command_encode (i : Instr) : i.opcode.command (encode i) = i := by
  cases i with
  | bcdEnc | bcdDec | clearStatus | updateControl | clearControl | setSqwFreq | setAging =>
    exact congrArg _ (byteField_byteOperand _ _)
  | readTime | getTemp | getStatus | getControl | enable32khz | getAging => exact congrArg _ (bitField_bitOperand _ _)
  | setTime year month date weekday hour minute second =>
    obtain ⟨f0, f8, f16, f24, f32, f40, f48⟩ := byteField_sevenBytes 0x21 year month date weekday hour minute second
    simp only [encode, Instr.operands, Instr.opcode, Opcode.byte, Opcode.command, f0, f8, f16, f24, f32, f40, f48]

theorem decode_encode (i : Instr) : decode (encode i) = .ok i := by
  obtain ⟨-, byte, reserved⟩ := encodeLegal i
  have listed : Opcode.ofByte (opcodeByte (encode i)) = some i.opcode := by rw [byte, Opcode.ofByte_byte]
  rw [decode_of_legal listed reserved, command_encode]

/-- A word with a listed opcode byte and its reserved bits 0 is the word of the command read from it. -/
theorem encode_command {w : Word64} {op : Opcode} (byte : op.byte = opcodeByte w)
    (reserved : w &&& op.format.reserved = 0) : encode (op.command w) = w := by
  cases op with
  | bcdEnc | bcdDec | clearStatus | updateControl | clearControl | setSqwFreq | setAging =>
    exact (congrArg (· ++ byteOperand (byteField w 0)) byte).trans (word_of_reserved_b reserved)
  | readTime | getTemp | getStatus | getControl | enable32khz | getAging =>
    exact (congrArg (· ++ bitOperand (bitField w)) byte).trans (word_of_reserved_g reserved)
  | setTime => exact (congrArg (· ++ sevenBytes _ _ _ _ _ _ _) byte).trans (word_of_sevenBytes w)

@[simp] theorem Opcode.opcode_command (op : Opcode) (w : Word64) : (op.command w).opcode = op := by cases op <;> rfl

/-! ## The opcode table -/

/-- The row of an opcode (R84). -/
def Opcode.row (op : Opcode) : CommandRow := ⟨op, op.byte ++ (0 : Field56), op.format.mask⟩

theorem commandRows_eq : commandRows = Opcode.all.map Opcode.row := by decide

theorem Opcode.mem_all (op : Opcode) : op ∈ Opcode.all := by cases op <;> decide

/-- The rows of the table are those of the opcodes. -/
theorem mem_commandRows {r : CommandRow} : r ∈ commandRows ↔ ∃ op : Opcode, op.row = r := by
  rw [commandRows_eq, List.mem_map]
  exact ⟨fun ⟨op, _, e⟩ => ⟨op, e⟩, fun ⟨op, e⟩ => ⟨op, op.mem_all, e⟩⟩

/-- The reserved bits of a format within the operand field (R82). -/
def Format.reservedField (f : Format) : Field56 := f.reserved.setWidth 56

theorem Format.reserved_eq (f : Format) : f.reserved = (0 : Byte) ++ f.reservedField := by cases f <;> decide

theorem Format.mask_eq (f : Format) : f.mask = BitVec.allOnes 8 ++ f.reservedField := by cases f <;> decide

/-- A word is its opcode byte above its operand field (R80). -/
theorem word_eq_append (w : Word64) : opcodeByte w ++ w.extractLsb' 0 56 = w :=
  BitVec.extractLsb'_append_extractLsb' (w := 8) (len := 56)

theorem append_inj {b c : Byte} {x y : Field56} : b ++ x = c ++ y ↔ b = c ∧ x = y := by
  refine ⟨fun h => ⟨?_, ?_⟩, fun ⟨hb, hx⟩ => hb ▸ hx ▸ rfl⟩
  · rw [← BitVec.extractLsb'_append_eq_left (a := b) (b := x), h, BitVec.extractLsb'_append_eq_left]
  · rw [← BitVec.extractLsb'_append_eq_right (a := b) (b := x), h, BitVec.extractLsb'_append_eq_right]

/-- The reserved bits of a word are those of its operand field. -/
theorem and_reserved_eq_zero {f : Format} {w : Word64} :
    w &&& f.reserved = 0 ↔ w.extractLsb' 0 56 &&& f.reservedField = 0 := by
  have cut : w &&& f.reserved = (0 : Byte) ++ (w.extractLsb' 0 56 &&& f.reservedField) := by
    conv_lhs => rw [← word_eq_append w, f.reserved_eq, BitVec.and_append, show opcodeByte w &&& 0 = 0 from BitVec.and_zero]
  rw [cut, show (0 : Word64) = (0 : Byte) ++ (0 : Field56) from rfl, append_inj, and_iff_right rfl]

/-- Mask and match say what the decoder asks in two questions: the opcode byte, and the reserved bits (R84, R88). -/
theorem Opcode.row_selects {op : Opcode} {w : Word64} :
    op.row.selects w = true ↔ op.byte = opcodeByte w ∧ w &&& op.format.reserved = 0 := by
  have cut : w &&& op.format.mask = opcodeByte w ++ (w.extractLsb' 0 56 &&& op.format.reservedField) := by
    conv_lhs => rw [← word_eq_append w, op.format.mask_eq, BitVec.and_append, BitVec.and_allOnes]
  rw [CommandRow.selects, beq_iff_eq, Opcode.row, cut, append_inj, and_reserved_eq_zero, eq_comm]

/-- A word is decoded to the command of an opcode exactly if it selects that opcode's row. -/
theorem decode_iff_selects {op : Opcode} {w : Word64} : decode w = .ok (op.command w) ↔ op.row.selects w = true := by
  rw [Opcode.row_selects]
  refine ⟨fun h => ?_, fun ⟨byte, reserved⟩ => decode_of_legal (byte ▸ op.ofByte_byte) reserved⟩
  obtain ⟨op', byte, reserved, same⟩ := decode_ok h
  obtain rfl : op = op' := by simpa using congrArg Instr.opcode same
  exact ⟨byte, reserved⟩

/-- The opcodes have different bytes. -/
theorem Opcode.byte_inj {op op' : Opcode} (h : op.byte = op'.byte) : op = op' := by
  have := op.ofByte_byte
  rw [h, Opcode.ofByte_byte] at this
  exact (Option.some.inj this).symm

end Sys2Proof

namespace Sys2Proof.Machine

open Sys2Proof

/-! ## Text -/

@[simp] theorem textByte_toNat (b : Byte) : textByte b.toNat = some b := by
  have := b.isLt
  rw [textByte, if_pos (by omega), BitVec.ofInt_natCast, BitVec.ofNat_toNat, BitVec.setWidth_eq]

@[simp] theorem textOffset_toInt (b : Byte) : textOffset b.toInt = some b := by
  have low := BitVec.le_toInt b
  have high := BitVec.toInt_lt (x := b)
  rw [textOffset, if_pos (by omega), BitVec.ofInt_toInt]

@[simp] theorem textBit_toNat (b : Bool) : textBit b.toNat = some b := by cases b <;> rfl

@[simp] theorem textDestination_destinationText (dp : Bool) : textDestination (destinationText dp) = some dp := by
  cases dp <;> rfl

/-- The text of a command assembles to it (R90). -/
theorem assemble_text (i : Instr) : assemble (Instr.text i) = some i := by
  cases i with
  | readTime | getTemp | getStatus | getControl | getAging => simp [assemble, Instr.text]
  | bcdEnc | bcdDec | clearStatus | updateControl | clearControl | setSqwFreq | enable32khz | setAging =>
    simp [assemble, Instr.text, textOne, byteText]
  | setTime => simp [assemble, Instr.text, textSeven, byteText]

end Sys2Proof.Machine

/-! ## The statements -/

namespace Sys2Proof.Proofs

open Sys2Proof Sys2Proof.Machine

/-- Settles O1: the opcode byte of an encoding is listed, its reserved bits are 0, and its fields are the operands. -/
theorem decodeOfEncodeReturnsTheCommand : Obligations.DecodeOfEncodeReturnsTheCommand := decode_encode

/-- Settles O2: what a decoded word says of itself makes it the word of its command. -/
theorem encodeOfDecodeReturnsTheWord : Obligations.EncodeOfDecodeReturnsTheWord := by
  intro w i h
  obtain ⟨op, byte, reserved, rfl⟩ := decode_ok h
  exact encode_command byte reserved

/-- Settles O3: the rows are those of the opcodes, and a row is selected exactly if the word decodes by its opcode. -/
theorem legalWordsSelectExactlyOneRow : Obligations.LegalWordsSelectExactlyOneRow := by
  refine ⟨fun w => ⟨?_, ?_⟩, ?_, ?_⟩
  · rintro ⟨i, h⟩
    obtain ⟨op, -, -, rfl⟩ := decode_ok h
    exact ⟨op.row, mem_commandRows.2 ⟨op, rfl⟩, decode_iff_selects.1 h⟩
  · rintro ⟨r, listed, selects⟩
    obtain ⟨op, rfl⟩ := mem_commandRows.1 listed
    exact ⟨_, decode_iff_selects.2 selects⟩
  · intro w i r h listed selects
    obtain ⟨op, rfl⟩ := mem_commandRows.1 listed
    obtain rfl : op.command w = i := Except.ok.inj ((decode_iff_selects.2 selects).symm.trans h)
    exact (op.opcode_command w).symm
  · intro w r r' listed listed' selects selects'
    obtain ⟨op, rfl⟩ := mem_commandRows.1 listed
    obtain ⟨op', rfl⟩ := mem_commandRows.1 listed'
    have byte := (Opcode.row_selects.1 selects).1
    have byte' := (Opcode.row_selects.1 selects').1
    rw [Opcode.byte_inj (byte.trans byte'.symm)]

/-- Settles O4: each word has a listed opcode byte and clear reserved bits, so the decoder gives the fields written out. -/
theorem sampleWordsDecode : Obligations.SampleWordsDecode := ⟨rfl, rfl, rfl, rfl, rfl, rfl, rfl, rfl, rfl⟩

/-- Settles O6: each operand is read back from its token, and the two columns of names have no name in common. -/
theorem assembleOfTextReturnsTheCommand : Obligations.AssembleOfTextReturnsTheCommand := by
  refine ⟨assemble_text, rfl, rfl, fun op => ?_⟩
  cases op <;> decide

/-- Settles O18: a response word is three fields side by side. -/
theorem responseWordHasItsFields : Obligations.ResponseWordHasItsFields := by
  intro r
  have above {start len : Nat} (h : 56 ≤ start) : r.word.extractLsb' start len
      = ((0 : BitVec 5) ++ r.code.number).extractLsb' (start - 56) len := BitVec.extractLsb'_append_eq_of_le h
  exact ⟨(above (by decide)).trans BitVec.extractLsb'_append_eq_left,
    (above (by decide)).trans BitVec.extractLsb'_append_eq_right, BitVec.extractLsb'_append_eq_right⟩

end Sys2Proof.Proofs
end

section
/-! SUPPORT. A step as an equation for each input of the host, what one transaction adds to a command, and the statements
about steps, reset, result codes and the invariant that hold of every command alike (spec files 10, 60 and 70). -/

namespace Sys2Proof.Machine

open Sys2Proof

variable {s t : State} {w : Word64} {resetAfter : Option Nat} {rest : List HostInput}

/-! ## A step, input by input -/

theorem step_command (idle : s.phase = .idle) (up : s.host = .command w resetAfter :: rest) :
    step s = runWord w (s.popHost.accept w resetAfter) := by simp only [step, idle, up]

/-- A legal word runs its command on the state that accepted it (R23, R88). -/
theorem step_of_legal {i : Instr} (idle : s.phase = .idle) (up : s.host = .command w resetAfter :: rest)
    (legal : decode w = .ok i) : step s = exec i (s.popHost.accept w resetAfter) := by
  rw [step_command idle up, runWord, legal]

/-- An illegal word completes at once (R87). -/
theorem step_of_illegal {e : DecodeError} (idle : s.phase = .idle) (up : s.host = .command w resetAfter :: rest)
    (illegal : decode w = .error e) : step s = .next (illegalCommand (s.popHost.accept w resetAfter)) := by
  rw [step_command idle up, runWord, illegal]

theorem step_reset (idle : s.phase = .idle) (up : s.host = .reset :: rest) : step s = .next s.popHost.blockReset := by
  simp only [step, idle, up]

theorem step_wait (idle : s.phase = .idle) (empty : s.host = []) : step s = .next s := by simp only [step, idle, empty]

/-- The state that has accepted a word, field by field (R23, R80). -/
theorem accept_popHost_eq (up : s.host = .command w resetAfter :: rest) : s.popHost.accept w resetAfter
    = { s with host := rest, cw := w, phase := .running 0, response := none, resetDue := resetAfter } := by
  simp only [State.popHost, State.accept, up, List.tail_cons]

/-! ## One transaction of a command -/

/-- The transaction `x` can be issued at `s`, and the device is at `dev` when it has returned (R54, R55, R63). -/
inductive Issues (s : State) : Transaction → Memory → Prop
  | readOk (r : Access) :
    Issues s (.read r.addr r.len .ok (s.devNow.readRun r.addr r.len)) (s.devNow.own (s.turnAt 0).after)
  | readFailed (r : Access) (f : TransportFailure) : Issues s (.read r.addr r.len (.failed f) []) s.devNow
  | writeOk (r : Access) (v : List Byte) (stored : r ≠ .temp) (len : v.length = r.len) :
    Issues s (.write (writeBuffer r v) (v.length + 1) .ok) ((s.devNow.writeRun r.addr v).own (s.turnAt 0).after)
  | writeFailed (r : Access) (v : List Byte) (f : TransportFailure) (stored : r ≠ .temp) (len : v.length = r.len) :
    Issues s (.write (writeBuffer r v) (v.length + 1) (.failed f)) s.devNow

/-- A property that the block's own registers do not matter for, and that every transaction keeps, is kept until the command
is reset or gives its answer. -/
theorem commandClosed_of_issues {P Q : State → Prop} (latch : ∀ s b, P s → P (s.setLatch b))
    (rbuf : ∀ s v, P s → P (s.setRbuf v)) (wbuf : ∀ s v, P s → P (s.setWbuf v)) (draw : ∀ s, P s → P s.draw)
    (issue : ∀ s x dev, P s → s.resetNow = false → Issues s x dev → P (s.completed x dev))
    (answer : ∀ s c p, P s → s.resetNow = false → c ≠ .notReady → Q (s.answer c p))
    (reset : ∀ s, P s → s.resetNow = true → Q s.blockReset) : CommandClosed P Q := by
  have finish {s : State} (c : ResultCode) (p : Field56) (h : P s) (hc : c ≠ .notReady) : Q (s.finish c p) := by
    unfold State.finish
    split
    · next now => exact reset s h now
    · next now => exact answer s c p h (Bool.eq_false_iff.2 now) hc
  have failure {c : ResultCode} (h : c ∈ [ResultCode.error, .timeout, .busy]) : c ≠ .notReady := by
    rintro rfl; exact absurd h (by decide)
  exact {
    setLatch := latch
    setRbuf := rbuf
    readOk := fun s r h now _ => issue s _ _ h now (.readOk r)
    writeOk := fun s r v h stored len now _ => issue (s.setWbuf _) _ _ (wbuf s _ h) now (.writeOk r v stored len)
    readFailed := fun s r f c h hc now _ =>
      finish c _ (draw _ (issue s _ _ h now (.readFailed r f))) (failure hc)
    writeFailed := fun s r v f c h stored len hc now _ =>
      finish c _ (draw _ (issue (s.setWbuf _) _ _ (wbuf s _ h) now (.writeFailed r v f stored len))) (failure hc)
    respond := fun s p h => finish .success p h (by decide)
    respondDrawn := fun s p h => finish .success p (draw s h) (by decide)
    invalid := fun s h => finish .invalidParam _ (draw s h) (by decide)
    reset := reset }

namespace Issues

variable {x : Transaction} {dev : Memory}

theorem legal (h : Issues s x dev) : x.legal = true := by
  cases h with
  | readOk r | readFailed r f => cases r <;> simp [Transaction.legal, Access.addr, Access.len]
  | writeOk r v stored len | writeFailed r v f stored len =>
    cases r with
    | temp => exact absurd rfl stored
    | time | control | status | aging => simp_all [Transaction.legal, Access.addr, Access.len]

theorem wf (h : Issues s x dev) (wf : s.mem.wf = true) : dev.wf = true := by
  have now := State.devNow_wf wf
  cases h with
  | readOk r => exact Memory.wf_own now _
  | readFailed r f => exact now
  | writeOk r v stored len => exact Memory.wf_own (Memory.wf_storeRun now stored len) _
  | writeFailed r v f stored len => exact now

end Issues

/-! ## The end of a command -/

/-- However a command ends, the block is idle, nothing is due, and no response says `NOT_READY` (R205, R207, R231). -/
structure Ended (t : State) : Prop where
  phase : t.phase = .idle
  resetDue : t.resetDue = none
  ready : ∀ r, t.response = some r → r.code ≠ .notReady

theorem ended_answer {c : ResultCode} (hc : c ≠ .notReady) (s : State) (p : Field56) : Ended (s.answer c p) :=
  ⟨rfl, rfl, fun r hr => by cases hr; exact hc⟩

theorem ended_blockReset (s : State) : Ended s.blockReset := ⟨rfl, rfl, nofun⟩

theorem ended_closed : CommandClosed (fun _ => True) Ended :=
  commandClosed_of_issues (fun _ _ h => h) (fun _ _ h => h) (fun _ _ h => h) (fun _ h => h) (fun _ _ _ h _ _ => h)
    (fun s _ p _ _ hc => ended_answer hc s p) (fun s _ _ => ended_blockReset s)

theorem ended_of_exec {i : Instr} (run : exec i s = .next t) : Ended t := ended_closed.exec trivial run

theorem ended_illegalCommand (s : State) : Ended (illegalCommand s) := ended_closed.invalid s trivial

/-- A step with a word ends its command. -/
theorem ended_of_step (up : s.host = .command w resetAfter :: rest) (run : step s = .next t) : Ended t := by
  cases hp : s.phase with
  | running k => rw [step_of_running hp] at run; cases run
  | idle =>
    rw [step_command hp up, runWord] at run
    split at run
    · exact ended_of_exec run
    · cases run; exact ended_illegalCommand _

/-- An idle block always steps, and is idle again. -/
theorem step_of_idle (idle : s.phase = .idle) : ∃ t, step s = .next t ∧ t.phase = .idle := by
  cases up : s.host with
  | nil => exact ⟨s, step_wait idle up, idle⟩
  | cons input rest =>
    cases input with
    | reset => exact ⟨_, step_reset idle up, rfl⟩
    | command w resetAfter =>
      have ⟨t, run⟩ : ∃ t, step s = .next t := by
        cases legal : decode w with
        | ok i => rw [step_of_legal idle up legal]; exact exec_next i _
        | error e => exact ⟨_, step_of_illegal idle up legal⟩
      exact ⟨t, run, (ended_of_step up run).phase⟩

/-- A command that is not to be reset ends with a response. -/
theorem answered_closed : CommandClosed (fun s => s.resetDue = none) (fun t => ∃ r, t.response = some r) :=
  commandClosed_of_issues (fun _ _ h => h) (fun _ _ h => h) (fun _ _ h => h) (fun _ h => h) (fun _ _ _ h _ _ => h)
    (fun _ _ _ _ _ _ => ⟨_, rfl⟩) (fun s h now => by rw [State.resetNow_of_none h] at now; cases now)

/-! ## A reset on its way -/

/-- Inside a command begun at `s` whose reset is due after `k` transactions: those issued so far are counted, and the reset
has not been passed (R231). -/
structure Awaits (s : State) (k : Nat) (u : State) : Prop where
  resetDue : u.resetDue = some k
  counted : ∃ l, u.bus = s.bus ++ l ∧ u.issued = l.length ∧ l.length ≤ k

/-- What a reset due after `k` transactions leaves of a command begun at `s`. -/
def Abandons (s : State) (k : Nat) (t : State) : Prop :=
  ∃ l, t.bus = s.bus ++ l ∧ l.length ≤ k ∧ (l.length = k → t.response = none)

theorem Awaits.resetNow {k : Nat} {u : State} (h : Awaits s k u) : u.resetNow = true ↔ k = u.issued := by
  rw [State.resetNow, h.resetDue, beq_iff_eq, Option.some_inj]

theorem abandons_closed (s : State) (k : Nat) : CommandClosed (Awaits s k) (Abandons s k) := by
  refine commandClosed_of_issues (fun _ _ h => ⟨h.resetDue, h.counted⟩) (fun _ _ h => ⟨h.resetDue, h.counted⟩)
    (fun _ _ h => ⟨h.resetDue, h.counted⟩) (fun _ h => ⟨h.resetDue, h.counted⟩) ?_ ?_ ?_
  · intro u x dev h now _
    obtain ⟨l, bus, issued, le⟩ := h.counted
    have notYet : l.length ≠ k := fun e => by rw [h.resetNow.2 (by omega)] at now; cases now
    exact ⟨h.resetDue, l ++ [x], by rw [State.completed_bus, bus, List.append_assoc], by simp [issued], by simp; omega⟩
  · intro u c p h now _
    obtain ⟨l, bus, issued, le⟩ := h.counted
    exact ⟨l, bus, le, fun e => by rw [h.resetNow.2 (by omega)] at now; cases now⟩
  · intro u h _
    obtain ⟨l, bus, _, le⟩ := h.counted
    exact ⟨l, bus, le, fun _ => rfl⟩

/-! ## The invariant -/

/-- The part of the invariant that holds inside a command too. -/
structure Sound (s : State) : Prop where
  mem : s.mem.wf = true
  masks : s.masks.wf = true
  bus : ∀ x ∈ s.bus, x.legal = true

theorem State.Inv.sound (h : s.Inv) : Sound s := by
  obtain ⟨-, -, mem, masks, bus, -⟩ := h
  exact ⟨mem, masks, bus⟩

theorem Sound.inv (h : Sound s) (e : Ended s) : s.Inv := ⟨e.phase, e.resetDue, h.mem, h.masks, h.bus, e.ready⟩

theorem sound_closed : CommandClosed Sound Sound := by
  refine commandClosed_of_issues (fun _ _ h => ⟨h.mem, h.masks, h.bus⟩) (fun _ _ h => ⟨h.mem, h.masks, h.bus⟩)
    (fun _ _ h => ⟨h.mem, h.masks, h.bus⟩) (fun _ h => ⟨h.mem, h.masks, h.bus⟩) ?_
    (fun _ _ _ h _ _ => ⟨h.mem, h.masks, h.bus⟩) (fun _ h _ => ⟨h.mem, h.masks, h.bus⟩)
  intro s x dev h _ issues
  refine ⟨issues.wf h.mem, h.masks, fun y hy => ?_⟩
  rcases List.mem_append.1 hy with old | new
  · exact h.bus y old
  · rw [List.mem_singleton.1 new]; exact issues.legal

/-- The default masks are 12 one-bit masks that do not meet within their registers (R8, R9). -/
theorem defaultMasks_wf : Config.defaultMasks.wf = true := by decide

/-- A step keeps the invariant (R21, R205, R230): what it can do is nothing, a reset, or a command from start to end. -/
theorem State.Inv.step (h : s.Inv) (run : step s = .next t) : t.Inv := by
  have sound := h.sound
  obtain ⟨-, rfl⟩ | ⟨rest, -, rfl⟩ | ⟨w, resetAfter, rest, up, command⟩ := step_cases h.1 run
  · exact h
  · exact Sound.inv ⟨sound.mem, sound.masks, sound.bus⟩ (ended_blockReset _)
  · have accepted : Sound (s.popHost.accept w resetAfter) := ⟨sound.mem, sound.masks, sound.bus⟩
    refine Sound.inv ?_ (ended_of_step up run)
    obtain ⟨e, -, rfl⟩ | ⟨i, -, ran⟩ := command
    · exact sound_closed.invalid _ accepted
    · exact sound_closed.exec accepted ran

end Sys2Proof.Machine

/-! ## The statements -/

namespace Sys2Proof.Proofs

open Sys2Proof Sys2Proof.Machine

/-- Settles O5: the bytes are gone through, the decoder's order of tests is R88's, and an illegal command is one raise on the
state that accepted its word. -/
theorem illegalCommandCompletesWithInvalidParam : Obligations.IllegalCommandCompletesWithInvalidParam := by
  refine ⟨by decide +kernel, fun w => decode_of_unknown, fun w op => decode_of_reserved,
    fun s w e rest idle up illegal => ?_⟩
  refine ⟨_, step_of_illegal idle up illegal, ?_⟩
  rw [accept_popHost_eq up, illegalCommand, State.raise_of_none rfl]
  exact ⟨rfl, rfl, rfl, rfl, rfl, rfl, rfl, rfl, rfl, rfl, rfl⟩

/-- Settles O7: a step with a legal word runs its command on the state that accepted it. -/
theorem stepRunsTheDecodedCommand : Obligations.StepRunsTheDecodedCommand := by
  intro s w resetAfter rest i idle up legal
  rw [step_of_legal idle up legal, accept_popHost_eq up]

/-- Settles O8: with no input up, a step of the idle block is a wait. -/
theorem idleBlockWaitsForACommand : Obligations.IdleBlockWaitsForACommand := fun _ => step_wait

/-- Settles O9: the reset clears fields of the block only. -/
theorem hostResetLeavesTheDeviceAlone : Obligations.HostResetLeavesTheDeviceAlone := by
  intro s rest idle up
  exact ⟨_, step_reset idle up, rfl, rfl, congrArg List.tail up, rfl, rfl, rfl, rfl, rfl, rfl⟩

/-- Settles O10: `step` looks at `PHASE` before anything else. -/
theorem noStepTakesASecondCommand : Obligations.NoStepTakesASecondCommand := fun _ _ => step_of_running

/-- Settles O11: after reset the host presents nothing, so the step waits. -/
theorem resetLeavesTheBlockIdle : Obligations.ResetLeavesTheBlockIdle :=
  ⟨rfl, fun _ => ⟨rfl, rfl, rfl, rfl, step_wait rfl rfl⟩⟩

/-- Settles O12: the reset state has issued nothing and holds the default masks. -/
theorem invariantHoldsAfterReset : Obligations.InvariantHoldsAfterReset :=
  fun _ canonical => ⟨rfl, rfl, canonical, defaultMasks_wf, nofun, nofun⟩

/-- Settles O13: what holds inside every command, and what every ending leaves, are together the invariant. -/
theorem everyStepKeepsTheInvariant : Obligations.EveryStepKeepsTheInvariant := fun _ _ => State.Inv.step

/-- Settles O14, by induction on the number of steps: an idle block steps to an idle one. -/
theorem everyRunOfAnIdleBlockGoesOn : Obligations.EveryRunOfAnIdleBlockGoesOn := by
  intro n
  induction n with
  | zero => exact fun s idle => ⟨s, rfl, idle⟩
  | succ n ih =>
    intro s idle
    obtain ⟨t, run, idle'⟩ := step_of_idle idle
    rw [run_succ run]
    exact ih t idle'

/-- Settles O15: no transaction is issued once the reset is due, and with as many issued there is no answer. -/
theorem resetAbandonsTheCommand : Obligations.ResetAbandonsTheCommand := by
  intro i s k begun due
  obtain ⟨t, run⟩ := exec_next i s
  have start : Awaits s k s := ⟨due, [], (List.append_nil _).symm, by rw [State.issued, begun]; rfl, Nat.zero_le k⟩
  obtain ⟨l, bus, le, silent⟩ := (abandons_closed s k).exec start run
  have ended := ended_of_exec run
  exact ⟨t, l, run, ended.phase, ended.resetDue, bus, le, silent⟩

/-- Settles O16: the read returns before the reset is due, and the write meets it. -/
theorem resetBetweenReadAndWriteStoresNothing : Obligations.ResetBetweenReadAndWriteStoresNothing := by
  intro s mask begun due ok
  have notYet : s.resetNow = false := by rw [State.resetNow, due, State.issued, begun]; rfl
  refine ⟨_, exec_clearStatus mask s, ?_⟩
  rw [readModifyWrite, readByte, memRead_of_ok .status notYet ok]
  have now (x : Transaction) (dev : Memory) (b : Byte) : ((s.completed x dev).setLatch b).resetNow = true := by
    rw [State.resetNow, State.setLatch_resetDue, State.completed_resetDue, due, State.setLatch_issued,
      State.completed_issued, State.issued, begun]
    rfl
  simp only [TxResult.andThen, writeBytes, memWrite_of_reset _ _ (now _ _ _)]
  exact ⟨rfl, rfl, rfl, rfl⟩

/-- Settles O17: the tables, and `collapse` is constant. -/
theorem codesHaveTheirNumbers : Obligations.CodesHaveTheirNumbers := by
  refine ⟨rfl, rfl, rfl, rfl, rfl, rfl, fun c => ?_, rfl, rfl, rfl, rfl, rfl, rfl, rfl, congrFun collapse_eq_error⟩
  cases c <;> decide

/-- Settles O19: without a reset every ending is an answer. -/
theorem everyCommandIsAnswered : Obligations.EveryCommandIsAnswered := by
  intro i s hnone
  obtain ⟨t, run⟩ := exec_next i s
  obtain ⟨r, response⟩ := answered_closed.exec hnone run
  have ended := ended_of_exec run
  exact ⟨t, r, run, response, ended.phase, ended.resetDue⟩

/-- Settles O22: no ending of a command, legal or not, says `NOT_READY`. -/
theorem notReadyIsNeverProduced : Obligations.NotReadyIsNeverProduced :=
  ⟨rfl, fun _ _ _ r run response => (ended_of_exec run).ready r response,
    fun _ _ _ _ _ r up run response => (ended_of_step up run).ready r response⟩

/-- Settles O59: the constraints on the defaults, and the two values named. -/
theorem defaultMasksMeetTheConstraints : Obligations.DefaultMasksMeetTheConstraints :=
  ⟨defaultMasks_wf, by decide, rfl⟩

end Sys2Proof.Proofs
end

section
/-! SUPPORT. The two arms of BCD_ENC (R112), and the statement about them. -/

namespace Sys2Proof.Machine

open Sys2Proof

/-- Up to 99 BCD_ENC answers the encoding (R112). -/
theorem exec_bcdEnc_of_le {d : Byte} (digits : d.toNat ≤ 99) (s : State) :
    exec (.bcdEnc d) s = .next (s.respond (bytePayload (bcdEnc d))) := congrArg Host.Outcome.next (if_pos digits)

/-- Above 99 BCD_ENC answers a free byte (R112). -/
theorem exec_bcdEnc_of_gt {d : Byte} (beyond : ¬ d.toNat ≤ 99) (s : State) :
    exec (.bcdEnc d) s = .next (s.draw.respond (bytePayload (Config.freeEncoding s.draws))) :=
  congrArg Host.Outcome.next (if_neg beyond)

end Sys2Proof.Machine

/-! ## The statement -/

namespace Sys2Proof.Proofs

open Sys2Proof Sys2Proof.Machine

/-- Settles O28: up to 99 the byte is the encoder's, above it is the free one; either way the command only answers. -/
theorem bcdEncAnswersTheEncoding : Obligations.BcdEncAnswersTheEncoding := by
  intro s d hnone
  refine ⟨word_byteOperand 0x10 d, ?_⟩
  by_cases digits : d.toNat ≤ 99
  · have e := succeeds_respond hnone (bytePayload (bcdEnc d))
    refine ⟨_, bcdEnc d, exec_bcdEnc_of_le digits s, ?_, fun _ => ?_, e.phase, e.bus, e.mem⟩
    · rw [e.response, bytePayload_eq_setWidth]
    · rw [← bcdEnc_toNat digits, BitVec.ofNat_toNat, BitVec.setWidth_eq]
  · have e := succeeds_respond (s := s.draw) hnone (bytePayload (Config.freeEncoding s.draws))
    refine ⟨_, Config.freeEncoding s.draws, exec_bcdEnc_of_gt digits s, ?_, fun h => absurd h digits, e.phase, e.bus,
      e.mem⟩
    rw [e.response, bytePayload_eq_setWidth]

end Sys2Proof.Proofs
end

section
/-! SUPPORT. How a command that is not to be reset ends: rejected before any transaction, cut at its first failed one, or
with its whole plan issued (R202, R207, R209); and the statements about codes and transactions over all commands. -/

namespace Sys2Proof

open Sys2Proof.Machine

/-! ## What the spec's tables say of a command -/

/-- The operands that a check before any bus activity turns down: an absent destination, or a time out of range (R202). -/
def Instr.Rejected : Instr → Prop
  | .readTime dp | .getTemp dp | .getStatus dp | .getControl dp | .getAging dp => dp = false
  | .setTime year month date weekday hour minute second =>
    ¬ (second.toNat ≤ 59 ∧ minute.toNat ≤ 59 ∧ hour.toNat ≤ 23 ∧ 1 ≤ weekday.toNat ∧ weekday.toNat ≤ 7
      ∧ 1 ≤ date.toNat ∧ date.toNat ≤ 31 ∧ 1 ≤ month.toNat ∧ month.toNat ≤ 12 ∧ year.toNat ≤ 99)
  | .bcdEnc _ | .bcdDec _ | .clearStatus _ | .updateControl _ | .clearControl _ | .enable32khz _ | .setSqwFreq _
  | .setAging _ => False

/-- What a command that uses the bus makes of a failed transaction (R203, R204). -/
def Instr.failure : Instr → Option (TransportFailure → ResultCode)
  | .bcdEnc _ | .bcdDec _ => none
  | .getTemp _ => some fun _ => .error
  | .readTime _ | .setTime _ _ _ _ _ _ _ | .getStatus _ | .clearStatus _ | .getControl _ | .updateControl _
  | .clearControl _ | .enable32khz _ | .setSqwFreq _ | .setAging _ | .getAging _ => some propagate

/-- The transactions of a successful command (R35, R250). -/
def Instr.Plan (m : Masks) : Instr → List Transaction → Prop
  | .bcdEnc _, l | .bcdDec _, l => l = []
  | .readTime _, l => ∃ v, l = [.read 0x00 7 .ok v]
  | .setTime _ _ _ _ _ _ _, l => ∃ v, v.length = 7 ∧ l = [.write (0x00 :: v) 8 .ok]
  | .getTemp _, l => ∃ v, l = [.read 0x11 2 .ok v]
  | .getStatus _, l => ∃ b, l = [.read 0x0F 1 .ok [b]]
  | .getControl _, l => ∃ b, l = [.read 0x0E 1 .ok [b]]
  | .getAging _, l => ∃ b, l = [.read 0x10 1 .ok [b]]
  | .setAging x, l => l = [.write [0x10, x] 2 .ok]
  | .clearStatus _, l | .enable32khz false, l => ∃ b c, l = [.read 0x0F 1 .ok [b], .write [0x0F, c] 2 .ok]
  | .updateControl _, l | .clearControl _, l | .setSqwFreq _, l =>
    ∃ b c, l = [.read 0x0E 1 .ok [b], .write [0x0E, c] 2 .ok]
  | .enable32khz true, l => ∃ a b c,
    (a &&& m.eosc = 0 ∧ l = [.read 0x0E 1 .ok [a], .read 0x0F 1 .ok [b], .write [0x0F, c] 2 .ok])
    ∨ (a &&& m.eosc ≠ 0 ∧ l = [.read 0x0E 1 .ok [a], .write [0x0E, a &&& ~~~m.eosc] 2 .ok,
        .read 0x0F 1 .ok [b], .write [0x0F, c] 2 .ok])

end Sys2Proof

namespace Sys2Proof.Machine

open Sys2Proof

variable {s t : State} {i : Instr} {r : Access}

/-- A failure's code is none that a check or a success gives. -/
theorem failure_ne {code : TransportFailure → ResultCode} (h : i.failure = some code) (f : TransportFailure) :
    code f ≠ .success ∧ code f ≠ .invalidParam := by
  have known : code = (fun _ => .error) ∨ code = propagate := by
    cases i <;> simp_all [Instr.failure, eq_comm]
  rcases known with rfl | rfl
  · exact ⟨nofun, nofun⟩
  · cases f <;> exact ⟨nofun, nofun⟩

/-! ## The three endings -/

/-- How the command `i`, begun at `s` with no reset due, has ended at `t`. -/
inductive Ending (i : Instr) (s t : State) : Prop
  | rejected (check : i.Rejected) (code : t.code = some .invalidParam) (bus : t.bus = s.bus) (mem : t.mem = s.mem)
    (script : t.script = s.script)
  | cut (check : ¬ i.Rejected) (pre : List Transaction) (x : Transaction) (f : TransportFailure)
    (short : pre.length < 4) (ok : ∀ y ∈ pre, y.status = .ok) (failed : x.status = .failed f)
    (bus : t.bus = s.bus ++ (pre ++ [x])) (table : TransportFailure → ResultCode) (failure : i.failure = some table)
    (code : t.code = some (table f))
  | complete (check : ¬ i.Rejected) (l : List Transaction) (plan : i.Plan s.masks l) (short : l.length ≤ 4)
    (ok : ∀ y ∈ l, y.status = .ok) (bus : t.bus = s.bus ++ l) (code : t.code = some .success)

theorem State.code_of_response {c : Response} (h : t.response = some c) : t.code = some c.code := by
  rw [State.code, h]; rfl

theorem ending_of_rejectsUntouched (h : RejectsUntouched i s) (check : i.Rejected) (run : exec i s = .next t) :
    Ending i s t := by
  obtain ⟨t', run', code, -, bus, mem, script⟩ := h
  cases run.symm.trans run'
  exact .rejected check code bus mem script

theorem ending_of_oneRead {code : TransportFailure → ResultCode} {payload : List Byte → Field56}
    (h : OneRead i s r code payload) (check : ¬ i.Rejected) (failure : i.failure = some code)
    (plan : ∀ v, v.length = r.len → i.Plan s.masks [.read r.addr r.len .ok v]) (run : exec i s = .next t) :
    Ending i s t := by
  obtain ⟨onFailed, onOk⟩ := h
  cases status : (s.turnAt 0).status with
  | failed f =>
    obtain ⟨t', run', hcode, -, -, bus⟩ := onFailed f status
    cases run.symm.trans run'
    exact .cut check [] _ f (by decide) nofun rfl bus code failure hcode
  | ok =>
    obtain ⟨t', run', response, -, -, bus⟩ := onOk status
    cases run.symm.trans run'
    exact .complete check _ (plan _ (Memory.readRun_length _ _ _)) (by simp) (by simp [Transaction.status]) bus
      (State.code_of_response response)

theorem ending_of_oneWrite {v : List Byte} (h : OneWrite i s r v) (check : ¬ i.Rejected)
    (failure : i.failure = some propagate) (plan : i.Plan s.masks [.write (writeBuffer r v) (v.length + 1) .ok])
    (run : exec i s = .next t) : Ending i s t := by
  obtain ⟨onFailed, onOk⟩ := h
  cases status : (s.turnAt 0).status with
  | failed f =>
    obtain ⟨t', run', code, -, -, bus⟩ := onFailed f status
    cases run.symm.trans run'
    exact .cut check [] _ f (by decide) nofun rfl bus propagate failure code
  | ok =>
    obtain ⟨t', run', response, -, -, bus⟩ := onOk status
    cases run.symm.trans run'
    exact .complete check _ plan (by simp) (by simp [Transaction.status]) bus (State.code_of_response response)

theorem ending_of_readThenWriteFrom {k : Nat} {dev : Memory} {pre : List Transaction} {edit : Byte → Byte}
    (h : ReadThenWriteFrom k dev pre i s r edit) (check : ¬ i.Rejected) (failure : i.failure = some propagate)
    (short : pre.length ≤ 2) (ok : ∀ y ∈ pre, y.status = .ok)
    (plan : ∀ b c, i.Plan s.masks (pre ++ [.read r.addr 1 .ok [b], .write [BitVec.ofNat 8 r.addr, c] 2 .ok]))
    (run : exec i s = .next t) : Ending i s t := by
  obtain ⟨onReadFailed, onWriteFailed, onOk⟩ := h
  have okRead (b : Byte) : ∀ y ∈ pre ++ [.read r.addr 1 .ok [b]], y.status = .ok := by
    simpa [or_imp, forall_and, Transaction.status] using ok
  cases readStatus : (s.turnAt k).status with
  | failed f =>
    obtain ⟨t', run', code, -, -, bus⟩ := onReadFailed f readStatus
    cases run.symm.trans run'
    exact .cut check pre _ f (by omega) ok rfl bus propagate failure code
  | ok =>
    cases writeStatus : (s.turnAt (k + 1)).status with
    | failed f =>
      obtain ⟨t', run', code, -, -, bus⟩ := onWriteFailed readStatus f writeStatus
      cases run.symm.trans run'
      rw [List.append_cons pre] at bus
      exact .cut check _ _ f (by simp; omega) (okRead _) rfl bus propagate failure code
    | ok =>
      obtain ⟨t', run', response, -, -, bus⟩ := onOk readStatus writeStatus
      cases run.symm.trans run'
      refine .complete check _ (plan _ _) (by simp; omega) ?_ bus (State.code_of_response response)
      simpa [or_imp, forall_and, Transaction.status] using ok

theorem ending_of_readThenWrite {edit : Byte → Byte} (h : ReadThenWrite i s r edit) (check : ¬ i.Rejected)
    (failure : i.failure = some propagate)
    (plan : ∀ b c, i.Plan s.masks [.read r.addr 1 .ok [b], .write [BitVec.ofNat 8 r.addr, c] 2 .ok])
    (run : exec i s = .next t) : Ending i s t :=
  ending_of_readThenWriteFrom h check failure (by decide) nofun plan run

/-- A passthrough read of one register ends by its destination. -/
theorem ending_of_getByte {dp : Bool} (hnone : s.resetDue = none) (shape : exec i s = .next (getByte r dp s))
    (check : i.Rejected ↔ dp = false) (failure : i.failure = some propagate)
    (plan : ∀ v, v.length = r.len → i.Plan s.masks [.read r.addr r.len .ok v]) (run : exec i s = .next t) :
    Ending i s t := by
  cases dp with
  | false => exact ending_of_rejectsUntouched (rejectsUntouched_of_getByte hnone shape) (check.2 rfl) run
  | true => exact ending_of_oneRead (oneRead_of_getByte hnone shape) (fun c => nomatch check.1 c) failure plan run

/-! ## Every command -/

/-- ENABLE_32KHZ 1 is cut at its read or its write of CONTROL, or ends as the read-modify-write of STATUS after them (R160). -/
theorem ending_of_enable32khz_true (hnone : s.resetDue = none) (run : exec (.enable32khz true) s = .next t) :
    Ending (.enable32khz true) s t := by
  obtain ⟨-, -, -, readFailed, clear, writeFailed, set⟩ := Proofs.enable32khzFollowsItsTransactionPlan s hnone
  cases readStatus : (s.turnAt 0).status with
  | failed f =>
    obtain ⟨t', run', code, -, -, bus⟩ := readFailed f readStatus
    cases run.symm.trans run'
    exact .cut id [] _ f (by decide) nofun rfl bus propagate rfl code
  | ok =>
    by_cases eosc : s.devNow.read 0x0E &&& s.masks.eosc = 0
    · exact ending_of_readThenWriteFrom (clear readStatus eosc) id rfl (by simp) (by simp [Transaction.status])
        (fun b c => ⟨_, b, c, .inl ⟨eosc, rfl⟩⟩) run
    · cases writeStatus : (s.turnAt 1).status with
      | failed f =>
        obtain ⟨t', run', code, -, -, bus⟩ := writeFailed readStatus eosc f writeStatus
        cases run.symm.trans run'
        exact .cut id [_] _ f (by simp) (by simp [Transaction.status]) rfl bus propagate rfl code
      | ok =>
        exact ending_of_readThenWriteFrom (set readStatus eosc writeStatus) id rfl (by simp)
          (by simp [Transaction.status]) (fun b c => ⟨_, b, c, .inr ⟨eosc, rfl⟩⟩) run

/-- Every command that is not to be reset ends in one of the three ways (R207, R209): by the shape of the command. -/
theorem ending_of_exec (hnone : s.resetDue = none) (run : exec i s = .next t) : Ending i s t := by
  cases i with
  | bcdEnc d =>
    obtain ⟨-, t', b, run', response, -, -, bus, -⟩ := Proofs.bcdEncAnswersTheEncoding s d hnone
    cases run.symm.trans run'
    exact .complete id [] rfl (by decide) nofun (by rw [bus, List.append_nil]) (State.code_of_response response)
  | bcdDec b =>
    obtain ⟨-, t', run', response, -, bus, -⟩ := Proofs.bcdDecAnswersTheDecimal s b hnone
    cases run.symm.trans run'
    exact .complete id [] rfl (by decide) nofun (by rw [bus, List.append_nil]) (State.code_of_response response)
  | readTime dp =>
    obtain ⟨-, absent, present⟩ := Proofs.readTimeAnswersTheDecodedRegisters s dp hnone
    cases dp with
    | false => exact ending_of_rejectsUntouched (absent rfl) rfl run
    | true => exact ending_of_oneRead (present rfl) nofun rfl (fun v _ => ⟨v, rfl⟩) run
  | setTime year month date weekday hour minute second =>
    let record : TimeRecord := ⟨year, month, date, weekday, hour, minute, second⟩
    by_cases valid : record.valid = true
    · exact ending_of_oneWrite (oneWrite_of_exec hnone (exec_setTime_of_valid valid s))
        (fun check => check (record.valid_iff.1 valid)) rfl ⟨record.registers, rfl, rfl⟩ run
    · exact ending_of_rejectsUntouched (rejectsUntouched_of_exec hnone (exec_setTime_of_invalid valid s))
        (fun inRange => valid (record.valid_iff.2 inRange)) run
  | getTemp dp =>
    obtain ⟨-, absent, present⟩ := Proofs.getTempAnswersQuarterUnits s dp hnone
    cases dp with
    | false => exact ending_of_rejectsUntouched (absent rfl) rfl run
    | true => exact ending_of_oneRead (present rfl) nofun rfl (fun v _ => ⟨v, rfl⟩) run
  | getStatus dp | getControl dp | getAging dp =>
    refine ending_of_getByte hnone rfl Iff.rfl rfl (fun v len => ?_) run
    obtain ⟨b, rfl⟩ := List.length_eq_one_iff.1 len
    exact ⟨b, rfl⟩
  | clearStatus | updateControl | clearControl | setSqwFreq =>
    exact ending_of_readThenWrite (readThenWrite_of_exec hnone rfl rfl) id rfl (fun b c => ⟨b, c, rfl⟩) run
  | enable32khz en =>
    cases en with
    | false => exact ending_of_readThenWrite (readThenWrite_of_exec hnone rfl rfl) id rfl (fun b c => ⟨b, c, rfl⟩) run
    | true => exact ending_of_enable32khz_true hnone run
  | setAging x => exact ending_of_oneWrite (oneWrite_of_exec hnone (exec_setAging x s)) id rfl rfl run

/-- The code of an ending is success, the check's, or the failure's. -/
theorem Ending.code_cases {c : ResultCode} (h : Ending i s t) (code : t.code = some c) :
    c = .success ∨ (i.Rejected ∧ c = .invalidParam) ∨ ∃ table f, i.failure = some table ∧ c = table f := by
  have same {c' : ResultCode} (h : t.code = some c') : c = c' := Option.some.inj (code.symm.trans h)
  cases h with
  | rejected check code' => exact .inr (.inl ⟨check, same code'⟩)
  | cut check pre x f _ _ _ _ table failure code' => exact .inr (.inr ⟨table, f, failure, same code'⟩)
  | complete check l _ _ _ _ code' => exact .inl (same code')

end Sys2Proof.Machine

/-! ## The statements -/

namespace Sys2Proof.Proofs

open Sys2Proof Sys2Proof.Machine

/-- Settles O20: the code is success, the check's if there is one, or the one a failed transaction is turned into. -/
theorem eachCommandReturnsOnlyItsCodes : Obligations.EachCommandReturnsOnlyItsCodes := by
  intro i s t r hnone run response
  rcases (ending_of_exec hnone run).code_cases (State.code_of_response response) with
    code | ⟨check, code⟩ | ⟨table, f, failure, code⟩
  · cases i <;> simp [code]
  · cases i <;> simp_all [Instr.Rejected]
  · cases i with
    | bcdEnc | bcdDec => exact nomatch failure
    | getTemp => cases failure; simp [code]
    | _ => cases failure; cases f <;> simp [code, propagate]

/-- Settles O21: the check is made first, and nothing but the check answers `INVALID_PARAM`. -/
theorem invalidParamPrecedesAnyBusActivity : Obligations.InvalidParamPrecedesAnyBusActivity := by
  intro i s t hnone run
  suffices main : (t.code = some .invalidParam ↔ i.Rejected)
      ∧ (t.code = some .invalidParam → t.bus = s.bus ∧ t.mem = s.mem ∧ t.script = s.script) by
    cases i <;> exact main
  cases ending_of_exec hnone run with
  | rejected check code bus mem script => exact ⟨⟨fun _ => check, fun _ => code⟩, fun _ => ⟨bus, mem, script⟩⟩
  | cut check pre x f _ _ _ _ table failure code =>
    have other : t.code ≠ some .invalidParam := fun h =>
      (failure_ne failure f).2 (Option.some.inj (code.symm.trans h))
    exact ⟨⟨fun h => absurd h other, fun h => absurd h check⟩, fun h => absurd h other⟩
  | complete check l _ _ _ _ code =>
    have other : t.code ≠ some .invalidParam := by rw [code]; decide
    exact ⟨⟨fun h => absurd h other, fun h => absurd h check⟩, fun h => absurd h other⟩

/-- Settles O23: only the last transaction of the cut ending failed, and its code is neither success nor the check's. -/
theorem commandEndsAtItsFirstFailure : Obligations.CommandEndsAtItsFirstFailure := by
  intro i s t hnone run
  cases ending_of_exec hnone run with
  | rejected _ code bus => exact ⟨[], by rw [bus, List.append_nil], by decide, nofun, by simp [code]⟩
  | cut _ pre x f short ok failed bus table failure code =>
    refine ⟨pre ++ [x], bus, by simp; omega, by simpa using ok, ?_⟩
    have notSuccess := (failure_ne failure f).1
    simp [code, notSuccess, failed]
  | complete _ l _ short ok bus code =>
    exact ⟨l, bus, short, fun x hx => ok x (List.mem_of_mem_dropLast hx), by simpa [code] using ok⟩

/-- Settles O52: of the three endings only the complete one succeeds. -/
theorem successfulCommandIssuesItsPlan : Obligations.SuccessfulCommandIssuesItsPlan := by
  intro i s t hnone run success
  suffices planned : ∃ l, t.bus = s.bus ++ l ∧ i.Plan s.masks l by
    obtain ⟨l, bus, plan⟩ := planned
    refine ⟨l, bus, ?_⟩
    cases i with
    | enable32khz en => cases en <;> exact plan
    | _ => exact plan
  cases ending_of_exec hnone run with
  | rejected _ code => rw [code] at success; exact absurd success (by decide)
  | cut _ _ _ f _ _ _ _ table failure code =>
    exact absurd (Option.some.inj (code.symm.trans success)) (failure_ne failure f).1
  | complete _ l plan _ _ bus => exact ⟨l, bus, plan⟩

end Sys2Proof.Proofs
end

section
/-! SUPPORT. What a command makes of the device registers that the device itself leaves alone, said once over all commands:
the register file after each of its writes (R29, R32, R55); and the statements about registers over all commands. -/

namespace Sys2Proof.Machine

open Sys2Proof

/-! ## Register files -/

/-- The content of the registers, by address. -/
abbrev RegisterFile := Nat → Byte

/-- The register file after a write of the run `r` (R55). -/
def RegisterFile.store (reg : RegisterFile) (r : Access) (v : List Byte) : RegisterFile :=
  fun a => if r.addr ≤ a ∧ a < r.addr + r.len then v.getD (a - r.addr) 0 else reg a

theorem RegisterFile.store_of_not_mem (reg : RegisterFile) {r : Access} {a : Nat} (h : a ∉ r.addresses) (v : List Byte) :
    reg.store r v a = reg a := by
  refine if_neg fun ⟨low, high⟩ => h ?_
  rw [Access.addresses, List.mem_map]
  exact ⟨a - r.addr, List.mem_range.2 (by omega), by omega⟩

/-- A write of one register updates the file at its address. -/
theorem RegisterFile.store_one (reg : RegisterFile) {r : Access} (len : r.len = 1) (b : Byte) :
    reg.store r [b] = Function.update reg r.addr b := by
  funext a
  rw [RegisterFile.store, len, Function.update_apply]
  by_cases here : a = r.addr
  · rw [if_pos (by omega), if_pos here, here, Nat.sub_self]
    rfl
  · rw [if_neg (by omega), if_neg here]

/-- Where the device leaves a register alone, `t` has it as in `reg`. -/
def Leaves (s : State) (reg : RegisterFile) (t : State) : Prop := ∀ a, s.Untouched a → t.mem.read a = reg a

/-- Inside a command begun at `s` the registers are as in `reg`, where the device leaves them alone. -/
structure Holds (s : State) (reg : RegisterFile) (u : State) : Prop where
  wf : u.mem.wf = true
  masks : u.masks = s.masks
  untouched : ∀ a, s.Untouched a → u.Untouched a
  leaves : Leaves s reg u

/-- A command that stops in `Q` wherever it does not succeed and the registers are as in `reg`. -/
def StopsIn (s : State) (reg : RegisterFile) (Q : State → Prop) : Prop :=
  ∀ t, Leaves s reg t → t.code ≠ some .success → Q t

/-! ## The end of a command -/

@[simp] theorem State.finish_mem (s : State) (c : ResultCode) (p : Field56) : (s.finish c p).mem = s.mem := by
  unfold State.finish; split <;> rfl

theorem State.code_finish (s : State) (c : ResultCode) (p : Field56) :
    (s.finish c p).code = none ∨ (s.finish c p).code = some c := by
  unfold State.finish
  split
  · exact .inl rfl
  · exact .inr rfl

/-- A command that raises the code of a failure does not succeed. -/
theorem State.code_raise_ne {c : ResultCode} (hc : c ≠ .success) (s : State) : (s.raise c).code ≠ some .success := by
  rcases s.draw.code_finish c (Config.freePayload s.draws) with h | h <;> simp [State.raise, h, hc]

theorem propagate_ne_success (f : TransportFailure) : propagate f ≠ .success := by cases f <;> decide

/-- The oscillator step, with the byte it reads (R160, steps 1 and 2). -/
theorem oscillatorOn_eq (s : State) (k : State → State) : oscillatorOn s k = readByte .control s fun b t =>
    if fieldSet t.masks.eosc b then writeBytes .control [clearBits t.masks.eosc b] (t.setLatch b) k
    else k (t.setLatch b) := rfl

theorem clearBits_of_disjoint {m b : Byte} (h : b &&& m = 0) : clearBits m b = b :=
  calc b &&& ~~~m = (b &&& m) ||| (b &&& ~~~m) := by rw [h, show (0 : Byte) ||| (b &&& ~~~m) = _ from BitVec.zero_or]
    _ = b := by rw [← BitVec.and_or_distrib_left, BitVec.or_not_self, BitVec.and_allOnes]

namespace Holds

variable {s u : State} {reg : RegisterFile} {Q : State → Prop}

theorem start (wf : s.mem.wf = true) : Holds s s.mem.read s := ⟨wf, rfl, fun _ h => h, fun _ _ => rfl⟩

theorem setLatch (h : Holds s reg u) (b : Byte) : Holds s reg (u.setLatch b) := ⟨h.wf, h.masks, h.untouched, h.leaves⟩

theorem setRbuf (h : Holds s reg u) (v : List Byte) : Holds s reg (u.setRbuf v) := ⟨h.wf, h.masks, h.untouched, h.leaves⟩

theorem setWbuf (h : Holds s reg u) (v : List Byte) : Holds s reg (u.setWbuf v) := ⟨h.wf, h.masks, h.untouched, h.leaves⟩

theorem leaves_finish (h : Holds s reg u) (c : ResultCode) (p : Field56) : Leaves s reg (u.finish c p) := fun a ha => by
  rw [State.finish_mem, h.leaves a ha]

theorem leaves_respond (h : Holds s reg u) (p : Field56) : Leaves s reg (u.respond p) := h.leaves_finish .success p

theorem leaves_raise (h : Holds s reg u) (c : ResultCode) : Leaves s reg (u.raise c) := fun a ha => by
  rw [State.raise, State.finish_mem, State.draw_mem, h.leaves a ha]

theorem stops (h : Holds s reg u) (stop : StopsIn s reg Q) {c : ResultCode} (hc : c ≠ .success) : Q (u.raise c) :=
  stop _ (h.leaves_raise c) (State.code_raise_ne hc u)

theorem stops_blockReset (h : Holds s reg u) (stop : StopsIn s reg Q) : Q u.blockReset := stop _ h.leaves nofun

/-! ### One transaction -/

theorem read_devNow (h : Holds s reg u) : Leaves s reg { u with mem := u.devNow } := fun a ha =>
  ((h.untouched a ha).read_before h.wf 0).trans (h.leaves a ha)

/-- A transaction that leaves the device at `dev`. -/
theorem completed {reg' : RegisterFile} (h : Holds s reg u) (x : Transaction) {dev : Memory} (wf : dev.wf = true)
    (read : ∀ a, s.Untouched a → dev.read a = reg' a) : Holds s reg' (u.completed x dev) :=
  ⟨wf, h.masks, fun a ha => (h.untouched a ha).completed x dev, read⟩

theorem completed_failed (h : Holds s reg u) (x : Transaction) : Holds s reg (u.completed x u.devNow) :=
  h.completed x (State.devNow_wf h.wf) h.read_devNow

theorem completed_read (h : Holds s reg u) (x : Transaction) :
    Holds s reg (u.completed x (u.devNow.own (u.turnAt 0).after)) :=
  h.completed x (Memory.wf_own (State.devNow_wf h.wf) _) fun a ha =>
    ((h.untouched a ha).read_after (State.devNow_wf h.wf) 0).trans (h.read_devNow a ha)

theorem completed_write (h : Holds s reg u) (x : Transaction) {r : Access} {v : List Byte} (stored : r ≠ .temp)
    (len : v.length = r.len) :
    Holds s (reg.store r v) (u.completed x ((u.devNow.writeRun r.addr v).own (u.turnAt 0).after)) := by
  have now := State.devNow_wf h.wf
  have wf := Memory.wf_storeRun now stored len
  refine h.completed x (Memory.wf_own wf _) fun a ha => ?_
  rw [(h.untouched a ha).read_after wf 0, Memory.read_writeRun now _ _ (len.symm ▸ Access.fits stored), len,
    RegisterFile.store]
  exact if_congr Iff.rfl rfl (h.read_devNow a ha)

/-! ### One transaction and what follows it -/

theorem memRead_andThen (h : Holds s reg u) (r : Access) {code : TransportFailure → ResultCode}
    (hcode : ∀ f, code f ≠ .success) {k : List Byte → State → State} (stop : StopsIn s reg Q)
    (go : ∀ v t, Holds s reg t → Q (k v t)) : Q ((memRead r u).andThen code k) :=
  memRead_cases r code k (fun _ => h.stops_blockReset stop) (fun f _ _ => (h.completed_failed _).stops stop (hcode f))
    fun _ _ => go _ _ (h.completed_read _)

/-- The byte of a one-register read is the register's, where the device leaves it alone. -/
theorem readByte (h : Holds s reg u) {r : Access} (len : r.len = 1) {k : Byte → State → State} (stop : StopsIn s reg Q)
    (go : ∀ b t, (s.Untouched r.addr → b = reg r.addr) → Holds s reg t → Q (k b t)) : Q (Machine.readByte r u k) :=
  readByte_cases len k (fun _ => h.stops_blockReset stop)
    (fun f _ _ => (h.completed_failed _).stops stop (propagate_ne_success f))
    fun _ _ => go _ _ (h.read_devNow r.addr) (h.completed_read _)

theorem writeBytes (h : Holds s reg u) {r : Access} {v : List Byte} (stored : r ≠ .temp) (len : v.length = r.len)
    {k : State → State} (stop : StopsIn s reg Q) (go : ∀ t, Holds s (reg.store r v) t → Q (k t)) :
    Q (Machine.writeBytes r v u k) :=
  writeBytes_cases r v k (fun _ => h.stops_blockReset stop)
    (fun f _ _ => ((h.setWbuf (writeBuffer r v)).completed_failed _).stops stop (propagate_ne_success f))
    fun _ _ => go _ ((h.setWbuf (writeBuffer r v)).completed_write _ stored len)

/-! ### The shapes of commands -/

/-- A write of one register goes on with the file updated there. -/
theorem writeByte (h : Holds s reg u) {r : Access} {b : Byte} (stored : r ≠ .temp) (len : r.len = 1)
    {k : State → State} (stop : StopsIn s reg Q) (go : ∀ t, Holds s (Function.update reg r.addr b) t → Q (k t)) :
    Q (Machine.writeBytes r [b] u k) :=
  h.writeBytes (v := [b]) stored len.symm stop (reg.store_one len b ▸ go)

/-- Where the device leaves the register alone, a write-back of the byte read is one of the register's byte. -/
theorem update_edit {a : Nat} {b c : Byte} (h : Holds s (Function.update reg a b) u) (same : s.Untouched a → b = c) :
    Holds s (Function.update reg a c) u := by
  refine ⟨h.wf, h.masks, h.untouched, fun x hx => (h.leaves x hx).trans ?_⟩
  by_cases here : x = a
  · subst here; rw [same hx]
  · rw [Function.update_of_ne here, Function.update_of_ne here]

theorem readModifyWrite (h : Holds s reg u) {r : Access} (stored : r ≠ .temp) (len : r.len = 1) {edit : Byte → Byte}
    (stop : StopsIn s reg Q) (done : ∀ t, Leaves s (Function.update reg r.addr (edit (reg r.addr))) t → Q t) :
    Q (Machine.readModifyWrite r edit u) :=
  h.readByte len stop fun _ _ same ht => (ht.setLatch _).writeByte stored len stop fun _ hv =>
    done _ ((hv.update_edit fun ha => congrArg edit (same ha)).leaves_respond 0)

theorem getByte (h : Holds s reg u) {r : Access} (len : r.len = 1) (dp : Bool) (stop : StopsIn s reg Q)
    (done : ∀ t, Leaves s reg t → Q t) : Q (Machine.getByte r dp u) := by
  cases dp with
  | false => exact h.stops stop (by decide)
  | true => exact h.readByte len stop fun b _ _ ht => done _ (ht.leaves_respond (bytePayload b))

/-- After the oscillator step CONTROL has `EOSC` clear, written back or not (R160). -/
theorem oscillatorOn (h : Holds s reg u) {k : State → State} (stop : StopsIn s reg Q)
    (go : ∀ t, Holds s (Function.update reg 0x0E (clearBits s.masks.eosc (reg 0x0E))) t → Q (k t)) :
    Q (Machine.oscillatorOn u k) := by
  rw [oscillatorOn_eq]
  refine h.readByte rfl stop fun b t same ht => ?_
  rw [ht.masks]
  by_cases set : fieldSet s.masks.eosc b = true
  · rw [if_pos set]
    exact (ht.setLatch b).writeByte (by decide) rfl stop fun _ hv =>
      go _ (hv.update_edit fun ha => congrArg (clearBits _) (same ha))
  · rw [if_neg set]
    have kept : clearBits s.masks.eosc b = b := clearBits_of_disjoint (not_not.1 (mt fieldSet_iff.2 set))
    have unwritten : Holds s (Function.update reg 0x0E (reg 0x0E)) (t.setLatch b) := by
      rw [Function.update_eq_self]; exact ht.setLatch b
    refine go _ (unwritten.update_edit fun ha => ?_)
    have read : b = reg 0x0E := same ha
    rw [← read, kept]

end Holds

end Sys2Proof.Machine

/-! ## Every command -/

namespace Sys2Proof

open Sys2Proof.Machine

/-- The register file after each write of a command begun with the file `old`, in order. -/
def Instr.files (m : Masks) (old : RegisterFile) : Instr → List RegisterFile
  | .setTime year month date weekday hour minute second =>
    [old.store .time (TimeRecord.registers ⟨year, month, date, weekday, hour, minute, second⟩)]
  | .setAging x => [Function.update old 0x10 x]
  | .clearStatus mask => [Function.update old 0x0F (clearBits mask (old 0x0F))]
  | .updateControl mask => [Function.update old 0x0E (setBits mask (old 0x0E))]
  | .clearControl mask => [Function.update old 0x0E (clearBits mask (old 0x0E))]
  | .setSqwFreq rsBits => [Function.update old 0x0E (editRate m rsBits (old 0x0E))]
  | .enable32khz false => [Function.update old 0x0F (clearBits m.en32k (old 0x0F))]
  | .enable32khz true =>
    let on := Function.update old 0x0E (clearBits m.eosc (old 0x0E))
    [on, Function.update on 0x0F (setBits m.en32k (on 0x0F))]
  | .bcdEnc _ | .bcdDec _ | .readTime _ | .getTemp _ | .getStatus _ | .getControl _ | .getAging _ => []

end Sys2Proof

namespace Sys2Proof.Machine

open Sys2Proof

variable {s t : State} {i : Instr}

/-- A command begun at `s` ends with one of the register files `old :: files`, and with the last of them if it succeeds. -/
structure EndsWithin (s : State) (old : RegisterFile) (files : List RegisterFile) (t : State) : Prop where
  within : ∃ reg ∈ old :: files, Leaves s reg t
  last : t.code = some .success → Leaves s (files.getLastD old) t

theorem EndsWithin.of_leaves {old : RegisterFile} (h : Leaves s old t) : EndsWithin s old [] t :=
  ⟨⟨old, List.mem_singleton_self old, h⟩, fun _ => h⟩

/-- The first file is one of the possible ends. -/
theorem EndsWithin.stops (old : RegisterFile) (files : List RegisterFile) : StopsIn s old (EndsWithin s old files) :=
  fun _ h failed => ⟨⟨old, List.mem_cons_self, h⟩, fun success => absurd success failed⟩

/-- The command has gone on to its next file. -/
theorem EndsWithin.cons {reg : RegisterFile} {files : List RegisterFile} (h : EndsWithin s reg files t)
    (old : RegisterFile) : EndsWithin s old (reg :: files) t :=
  ⟨let ⟨x, hx, ends⟩ := h.within; ⟨x, List.mem_cons_of_mem old hx, ends⟩,
    fun success => by rw [List.getLastD_cons]; exact h.last success⟩

theorem EndsWithin.of_done {reg : RegisterFile} (old : RegisterFile) (h : Leaves s reg t) : EndsWithin s old [reg] t :=
  (EndsWithin.of_leaves h).cons old

theorem endsWithin_of_exec (wf : s.mem.wf = true) (run : exec i s = .next t) :
    EndsWithin s s.mem.read (i.files s.masks s.mem.read) t := by
  have start := Holds.start wf
  have stop {files : List RegisterFile} := EndsWithin.stops (s := s) s.mem.read files
  have done {reg : RegisterFile} (t : State) (h : Leaves s reg t) := EndsWithin.of_done s.mem.read h
  have collapsed (f : TransportFailure) : collapse f ≠ .success := by cases f <;> decide
  cases i <;> cases run
  case bcdEnc d =>
    split
    · exact .of_leaves (start.leaves_respond _)
    · exact .of_leaves fun a _ => congrArg (·.read a) (State.finish_mem s.draw _ _)
  case bcdDec => exact .of_leaves (start.leaves_respond _)
  case readTime dp =>
    cases dp with
    | false => exact start.stops stop (by decide)
    | true =>
      exact start.memRead_andThen .time propagate_ne_success stop fun v t ht =>
        .of_leaves ((ht.setRbuf v).leaves_respond _)
  case getTemp dp =>
    cases dp with
    | false => exact start.stops stop (by decide)
    | true => exact start.memRead_andThen .temp collapsed stop fun v t ht => .of_leaves ((ht.setRbuf v).leaves_respond _)
  case getStatus dp | getControl dp | getAging dp => exact start.getByte rfl dp stop fun _ => .of_leaves
  case setTime =>
    split
    · exact start.writeBytes (by decide) rfl stop fun v hv => done _ (hv.leaves_respond 0)
    · exact start.stops stop (by decide)
  case setAging => exact start.writeByte (by decide) rfl stop fun v hv => done _ (hv.leaves_respond 0)
  case clearStatus | updateControl | clearControl | setSqwFreq => exact start.readModifyWrite (by decide) rfl stop done
  case enable32khz en =>
    cases en with
    | false => exact start.readModifyWrite (by decide) rfl stop done
    | true =>
      refine start.oscillatorOn stop fun u hu => ?_
      show EndsWithin _ _ _ (switchOutput true u)
      rw [switchOutput_true, hu.masks]
      exact hu.readModifyWrite (by decide) rfl (fun t ht failed => (EndsWithin.stops _ _ t ht failed).cons _)
        fun t ht => (EndsWithin.of_done _ ht).cons _

/-- The alarm and temperature registers and everything above are in no file changed (R29, R34). -/
theorem files_outside {m : Masks} {old reg : RegisterFile} (h : reg ∈ i.files m old) {a : Nat}
    (ha : (0x07 ≤ a ∧ a ≤ 0x0D) ∨ 0x11 ≤ a) : reg a = old a := by
  have time (v : List Byte) : old.store .time v a = old a := if_neg (by simp only [Access.addr, Access.len]; omega)
  have control : a ≠ 0x0E := by omega
  have status : a ≠ 0x0F := by omega
  have aging : a ≠ 0x10 := by omega
  cases i with
  | enable32khz en =>
    cases en with
    | false => simp_all [Instr.files]
    | true => rcases List.mem_pair.1 h with rfl | rfl <;> simp [control, status]
  | _ => simp_all [Instr.files]

/-- Clearing bits sets none. -/
theorem clearBits_sets_none (mask b : Byte) : clearBits mask b &&& ~~~b = 0 := by
  rw [clearBits, BitVec.and_comm b, BitVec.and_assoc, BitVec.and_not_self]
  exact BitVec.and_zero

/-- Setting bits sets none but those of the mask. -/
theorem setBits_sets_mask (mask b : Byte) : setBits mask b &&& ~~~b &&& ~~~mask = 0 := by
  rw [setBits, BitVec.and_assoc, ← BitVec.not_or, BitVec.and_not_self]

/-- STATUS gains no bit in any file of a command, but `EN32K` by ENABLE_32KHZ 1 (R32). -/
theorem files_status {m : Masks} {old reg : RegisterFile} (h : reg ∈ i.files m old) :
    reg 0x0F &&& ~~~old 0x0F &&& ~~~(if i = .enable32khz true then m.en32k else 0) = 0 := by
  have kept (b c : Byte) : b &&& ~~~b &&& c = 0 := by rw [BitVec.and_not_self]; exact BitVec.zero_and
  have cleared (mask b c : Byte) : clearBits mask b &&& ~~~b &&& c = 0 := by
    rw [clearBits_sets_none]; exact BitVec.zero_and
  cases i with
  | bcdEnc | bcdDec | readTime | getTemp | getStatus | getControl | getAging => exact absurd h List.not_mem_nil
  | setTime | setAging | updateControl | clearControl | setSqwFreq =>
    obtain rfl := List.mem_singleton.1 h
    exact kept (old 0x0F) _
  | clearStatus =>
    obtain rfl := List.mem_singleton.1 h
    exact cleared _ (old 0x0F) _
  | enable32khz en =>
    cases en with
    | false =>
      obtain rfl := List.mem_singleton.1 h
      exact cleared _ (old 0x0F) _
    | true =>
      rcases List.mem_pair.1 h with rfl | rfl
      · exact kept (old 0x0F) _
      · exact setBits_sets_mask m.en32k (old 0x0F)

/-! ## The transactions of every command -/

/-- What holds of every transaction that can be issued holds of all that a command begun at `s` issues. -/
theorem issued_closed (s : State) {T : Transaction → Prop} (all : ∀ u x dev, Issues u x dev → T x) :
    CommandClosed (fun u => ∃ l, u.bus = s.bus ++ l ∧ ∀ x ∈ l, T x)
      (fun t => ∃ l, t.bus = s.bus ++ l ∧ ∀ x ∈ l, T x) := by
  refine commandClosed_of_issues (fun _ _ h => h) (fun _ _ h => h) (fun _ _ h => h) (fun _ h => h) ?_
    (fun _ _ _ h _ _ => h) (fun _ h _ => h)
  rintro u x dev ⟨l, bus, inside⟩ _ issues
  refine ⟨l ++ [x], by rw [State.completed_bus, bus, List.append_assoc], fun y hy => ?_⟩
  rcases List.mem_append.1 hy with old | new
  · exact inside y old
  · rw [List.mem_singleton.1 new]; exact all u x dev issues

/-- The registers a transaction addresses: reads outside the alarm registers and inside the map, writes of the time
registers, CONTROL, STATUS or AGING (R29, R34, R53). -/
def InReach : Transaction → Prop
  | .read addr len _ _ => addr + len ≤ 0x07 ∨ (0x0E ≤ addr ∧ addr + len ≤ 0x13)
  | .write buffer length _ => ∃ b v, buffer = b :: v ∧ length = buffer.length
    ∧ (b.toNat + v.length ≤ 0x07 ∨ (0x0E ≤ b.toNat ∧ b.toNat + v.length ≤ 0x11))

theorem Issues.inReach {x : Transaction} {dev : Memory} (h : Issues s x dev) : InReach x := by
  cases h with
  | readOk r | readFailed r f => cases r <;> simp [InReach, Access.addr, Access.len]
  | writeOk r v stored len | writeFailed r v f stored len =>
    refine ⟨_, v, rfl, rfl, ?_⟩
    rw [len]
    cases r with
    | temp => exact absurd rfl stored
    | time | control | status | aging => decide

end Sys2Proof.Machine

/-! ## The statements -/

namespace Sys2Proof.Proofs

open Sys2Proof Sys2Proof.Machine

/-- Settles O43: of the register files of the command, success leaves the last. -/
theorem oscillatorIsOnWhenOutputIsEnabled : Obligations.OscillatorIsOnWhenOutputIsEnabled := by
  intro s t _ wf control status run success
  have last := (endsWithin_of_exec wf run).last success
  refine ⟨(last 0x0E control).trans ?_, (last 0x0F status).trans ?_, fun a hc hs ha => (last a ha).trans ?_⟩
  · simp [Instr.files, clearBits]
  · simp [Instr.files, setBits]
  · simp [Instr.files, hc, hs]

/-- Settles O44: in none of the register files of a command, the old one among them, STATUS has another bit. -/
theorem onlyEnable32khzSetsAStatusBit : Obligations.OnlyEnable32khzSetsAStatusBit := by
  intro i s t wf status run
  obtain ⟨reg, hreg, leaves⟩ := (endsWithin_of_exec wf run).within
  rw [leaves 0x0F status]
  rcases List.mem_cons.1 hreg with rfl | hreg
  · rw [BitVec.and_not_self]; exact BitVec.zero_and
  · exact files_status hreg

/-- Settles O51: no register file of a command changes these registers, and every transaction it issues is of a legal run. -/
theorem alarmRegistersAreNeverReached : Obligations.AlarmRegistersAreNeverReached := by
  intro i s t wf run
  refine ⟨fun a ha untouched => ?_, ?_⟩
  · obtain ⟨reg, hreg, leaves⟩ := (endsWithin_of_exec wf run).within
    rw [leaves a untouched]
    rcases List.mem_cons.1 hreg with rfl | hreg
    · rfl
    · exact files_outside hreg ha
  · have start : ∃ l, s.bus = s.bus ++ l ∧ ∀ x ∈ l, InReach x := ⟨[], (List.append_nil _).symm, nofun⟩
    obtain ⟨l, bus, inside⟩ := (issued_closed s fun _ _ _ => Issues.inReach).exec start run
    refine ⟨l, bus, fun x hx => ?_⟩
    cases x <;> exact inside _ hx

end Sys2Proof.Proofs
end

section
/-! SUPPORT. What a command that is not to be reset leaves in the block's transient registers (R23, log entry 15), and the
frames of the commands. -/

namespace Sys2Proof.Machine

open Sys2Proof

variable {s t u : State}

/-! ## Fields that no transaction and no answer touches -/

/-- A field of the state that is not the business of transactions, answers and free values. -/
structure Spared {α : Type} (field : State → α) : Prop where
  completed : ∀ s x dev, field (s.completed x dev) = field s
  draw : ∀ s, field s.draw = field s
  answer : ∀ s c p, field (s.answer c p) = field s

theorem spared_latch : Spared State.latch := ⟨fun _ _ _ => rfl, fun _ => rfl, fun _ _ _ => rfl⟩

theorem spared_rbuf : Spared State.rbuf := ⟨fun _ _ _ => rfl, fun _ => rfl, fun _ _ _ => rfl⟩

theorem spared_wbuf : Spared State.wbuf := ⟨fun _ _ _ => rfl, fun _ => rfl, fun _ _ _ => rfl⟩

namespace Spared

variable {α : Type} {field : State → α} {r : Access}

theorem respond (h : Spared field) (hnone : s.resetDue = none) (p : Field56) : field (s.respond p) = field s := by
  rw [State.respond_of_none hnone, h.answer]

theorem raise (h : Spared field) (hnone : s.resetDue = none) (c : ResultCode) : field (s.raise c) = field s := by
  rw [State.raise_of_none hnone, h.answer, h.draw]

theorem memRead_andThen (h : Spared field) (hnone : s.resetDue = none) (r : Access) (code : TransportFailure → ResultCode)
    {k : List Byte → State → State} (go : ∀ v t, t.resetDue = none → field (k v t) = field t) :
    field ((memRead r s).andThen code k) = field s := by
  have now := State.resetNow_of_none hnone
  refine memRead_cases (Q := fun t => field t = field s) r code k (fun due => ?_) (fun f _ _ => ?_) (fun _ _ => ?_)
  · rw [now] at due; cases due
  · rw [h.raise (by exact hnone), h.completed]
  · rw [go _ _ (by exact hnone), h.completed]

theorem readByte (h : Spared field) (hnone : s.resetDue = none) {k : Byte → State → State}
    (go : ∀ b t, t.resetDue = none → field (k b t) = field t) : field (Machine.readByte r s k) = field s :=
  h.memRead_andThen hnone r propagate fun v => go (byteAt v 0)

theorem writeBytes (h : Spared field) (wbuf : ∀ s v, field (s.setWbuf v) = field s) (hnone : s.resetDue = none)
    {v : List Byte} {k : State → State} (go : ∀ t, t.resetDue = none → field (k t) = field t) :
    field (Machine.writeBytes r v s k) = field s := by
  have now := State.resetNow_of_none hnone
  refine writeBytes_cases (Q := fun t => field t = field s) r v k (fun due => ?_) (fun f _ _ => ?_) (fun _ _ => ?_)
  · rw [now] at due; cases due
  · rw [h.raise (by exact hnone), h.completed, wbuf]
  · rw [go _ (by exact hnone), h.completed, wbuf]

theorem withDestination (h : Spared field) (hnone : s.resetDue = none) (dp : Bool) {k : State → State}
    (go : field (k s) = field s) : field (Machine.withDestination dp s k) = field s := by
  cases dp with
  | false => exact h.raise hnone _
  | true => exact go

theorem getByte (h : Spared field) (hnone : s.resetDue = none) (dp : Bool) : field (Machine.getByte r dp s) = field s :=
  h.withDestination hnone dp (h.readByte hnone fun _ _ ht => h.respond ht _)

/-- The block reads put their bytes into `RBUF` and nowhere else. -/
theorem blockRead (h : Spared field) (rbuf : ∀ s v, field (s.setRbuf v) = field s) (hnone : s.resetDue = none) (dp : Bool)
    (code : TransportFailure → ResultCode) (payload : List Byte → Field56) :
    field (Machine.withDestination dp s fun s =>
      (memRead r s).andThen code fun v s => (s.setRbuf v).respond (payload v)) = field s :=
  h.withDestination hnone dp (h.memRead_andThen hnone r code fun v t ht => by
    rw [h.respond (by exact ht), rbuf])

theorem readModifyWrite (h : Spared field) (latch : ∀ s b, field (s.setLatch b) = field s)
    (wbuf : ∀ s v, field (s.setWbuf v) = field s) (hnone : s.resetDue = none) (edit : Byte → Byte) :
    field (Machine.readModifyWrite r edit s) = field s :=
  h.readByte hnone fun b t ht =>
    (h.writeBytes (s := t.setLatch b) wbuf ht fun _ hv => h.respond hv 0).trans (latch t b)

theorem oscillatorOn (h : Spared field) (latch : ∀ s b, field (s.setLatch b) = field s)
    (wbuf : ∀ s v, field (s.setWbuf v) = field s) (hnone : s.resetDue = none) {k : State → State}
    (go : ∀ t, t.resetDue = none → field (k t) = field t) : field (Machine.oscillatorOn s k) = field s := by
  rw [oscillatorOn_eq]
  refine h.readByte hnone fun b t ht => Eq.trans ?_ (latch t b)
  split
  · exact h.writeBytes (s := t.setLatch b) wbuf ht go
  · exact go _ ht

end Spared

/-! ## The surroundings -/

theorem sameSurroundings_of_exec {i : Instr} (hnone : s.resetDue = none) (run : exec i s = .next t) :
    SameSurroundings s t := (surroundings_closed s).exec ⟨hnone, rfl, rfl, rfl, rfl⟩ run

/-- Registers in no file of the command are as they were. -/
theorem sameRegistersBut_of_files {i : Instr} {stored : List Nat} (wf : s.mem.wf = true)
    (files : ∀ reg ∈ i.files s.masks s.mem.read, ∀ a, a ∉ stored → reg a = s.mem.read a)
    (run : exec i s = .next t) : SameRegistersBut stored s t := by
  obtain ⟨reg, hreg, leaves⟩ := (endsWithin_of_exec wf run).within
  intro a ha untouched
  rw [leaves a untouched]
  rcases List.mem_cons.1 hreg with rfl | hreg
  · rfl
  · exact files reg hreg a ha

/-- Clearing the bits of a mask changes no other bit. -/
theorem clearBits_and_not (m b : Byte) : clearBits m b &&& ~~~m = b &&& ~~~m := by
  rw [clearBits, BitVec.and_assoc, BitVec.and_self]

/-- Setting the bits of a mask changes no other bit. -/
theorem setBits_and_not (m b : Byte) : setBits m b &&& ~~~m = b &&& ~~~m := by
  rw [setBits, BitVec.and_or_distrib_right, BitVec.and_not_self]
  exact BitVec.or_zero

end Sys2Proof.Machine

/-! ## The statements -/

namespace Sys2Proof.Proofs

open Sys2Proof Sys2Proof.Machine

/-- Settles O54: a codec command is one answer, above 99 after a draw. -/
theorem frameOfTheCodecCommands : Obligations.FrameOfTheCodecCommands := by
  intro x i s t hi hnone run
  refine ⟨sameSurroundings_of_exec hnone run, ?_⟩
  rcases List.mem_pair.1 hi with rfl | rfl
  · by_cases digits : x.toNat ≤ 99
    · rw [exec_bcdEnc_of_le digits, State.respond_of_none hnone] at run
      cases run
      exact ⟨rfl, rfl, rfl, rfl, rfl, rfl⟩
    · rw [exec_bcdEnc_of_gt digits, State.respond_of_none (s := s.draw) hnone] at run
      cases run
      exact ⟨rfl, rfl, rfl, rfl, rfl, rfl⟩
  · rw [exec_bcdDec_of_none hnone] at run
    cases run
    exact ⟨rfl, rfl, rfl, rfl, rfl, rfl⟩

/-- Settles O55: these commands write no register file, and of the transient registers only the block reads write one. -/
theorem frameOfTheReadingCommands : Obligations.FrameOfTheReadingCommands := by
  intro dp i s t hi hnone wf run
  have surroundings := sameSurroundings_of_exec hnone run
  have registers (unwritten : i.files s.masks s.mem.read = []) : SameRegistersBut [] s t :=
    sameRegistersBut_of_files wf (by rw [unwritten]; nofun) run
  have passthrough {r : Access} (shape : getByte r dp s = t) : t.latch = s.latch ∧ t.wbuf = s.wbuf ∧ t.rbuf = s.rbuf :=
    shape ▸ ⟨spared_latch.getByte hnone dp, spared_wbuf.getByte hnone dp, spared_rbuf.getByte hnone dp⟩
  simp only [List.mem_cons, List.not_mem_nil, or_false] at hi
  rcases hi with rfl | rfl | rfl | rfl | rfl
  · cases run
    exact ⟨surroundings, registers rfl, spared_latch.blockRead (fun _ _ => rfl) hnone dp propagate _,
      spared_wbuf.blockRead (fun _ _ => rfl) hnone dp propagate _, by simp⟩
  · cases run
    exact ⟨surroundings, registers rfl, spared_latch.blockRead (fun _ _ => rfl) hnone dp collapse _,
      spared_wbuf.blockRead (fun _ _ => rfl) hnone dp collapse _, by simp⟩
  all_goals
    obtain ⟨latch, wbuf, rbuf⟩ := passthrough (Host.Outcome.next.inj run)
    exact ⟨surroundings, registers rfl, latch, wbuf, fun _ => rbuf⟩

/-- Settles O56: these commands write the file of one run, and of the transient registers the write buffer. -/
theorem frameOfTheWritingCommands : Obligations.FrameOfTheWritingCommands := by
  intro year month date weekday hour minute second i r s t shape hnone wf run
  have surroundings := sameSurroundings_of_exec hnone run
  have ends {v : List Byte} : (writeBytes r v s fun s => s.respond 0).latch = s.latch
      ∧ (writeBytes r v s fun s => s.respond 0).rbuf = s.rbuf :=
    ⟨spared_latch.writeBytes (fun _ _ => rfl) hnone fun _ ht => spared_latch.respond ht 0,
      spared_rbuf.writeBytes (fun _ _ => rfl) hnone fun _ ht => spared_rbuf.respond ht 0⟩
  rcases shape with ⟨rfl, rfl⟩ | ⟨rfl, rfl⟩
  · have registers := sameRegistersBut_of_files (stored := Access.time.addresses) wf (fun reg hreg a ha => by
      rw [List.mem_singleton.1 hreg]; exact RegisterFile.store_of_not_mem _ ha _) run
    refine ⟨surroundings, registers, ?_⟩
    cases run
    split
    · exact ends
    · exact ⟨spared_latch.raise hnone _, spared_rbuf.raise hnone _⟩
  · have registers := sameRegistersBut_of_files (stored := Access.aging.addresses) wf (fun reg hreg a ha => by
      rw [List.mem_singleton.1 hreg, Function.update_of_ne fun here => ha (by subst here; decide)]) run
    refine ⟨surroundings, registers, ?_⟩
    cases run
    exact ends

/-- Settles O57: each command is the engine on its register, which stores there only, and `RBUF` is no part of it. -/
theorem frameOfTheReadModifyWrites : Obligations.FrameOfTheReadModifyWrites := by
  intro x i r s t shape hnone wf run
  obtain ⟨edit, engine⟩ : ∃ edit, exec i s = .next (readModifyWrite r edit s) := by
    simp only [List.mem_cons, List.not_mem_nil, or_false] at shape
    rcases shape with ⟨rfl | rfl, rfl⟩ | ⟨rfl | rfl | rfl, rfl⟩ <;> exact ⟨_, rfl⟩
  have stored : r ≠ .temp := by rcases shape with ⟨-, rfl⟩ | ⟨-, rfl⟩ <;> decide
  have len : r.len = 1 := by rcases shape with ⟨-, rfl⟩ | ⟨-, rfl⟩ <;> rfl
  refine ⟨sameSurroundings_of_exec hnone run, ?_⟩
  cases run.symm.trans engine
  refine ⟨(Holds.start wf).readModifyWrite stored len (fun _ leaves _ a _ ha => leaves a ha) fun _ leaves a out ha => ?_,
    spared_rbuf.readModifyWrite (fun _ _ => rfl) (fun _ _ => rfl) hnone edit⟩
  rw [leaves a ha, ← RegisterFile.store_one _ len]
  exact RegisterFile.store_of_not_mem _ out _

/-- Settles O58: the two files of the command differ from the old one in `EOSC` and in `EN32K`. -/
theorem frameOfEnable32khz : Obligations.FrameOfEnable32khz := by
  intro s t hnone wf run
  obtain ⟨reg, hreg, leaves⟩ := (endsWithin_of_exec wf run).within
  have files : (∀ a, a ∉ Access.control.addresses ++ Access.status.addresses → reg a = s.mem.read a)
      ∧ reg 0x0E &&& ~~~s.masks.eosc = s.mem.read 0x0E &&& ~~~s.masks.eosc
      ∧ reg 0x0F &&& ~~~s.masks.en32k = s.mem.read 0x0F &&& ~~~s.masks.en32k := by
    rw [show Access.control.addresses ++ Access.status.addresses = [0x0E, 0x0F] from rfl]
    rcases List.mem_cons.1 hreg with rfl | hreg
    · exact ⟨fun _ _ => rfl, rfl, rfl⟩
    · rcases List.mem_pair.1 hreg with rfl | rfl <;>
        simp +contextual [clearBits_and_not, setBits_and_not]
  obtain ⟨outside, control, status⟩ := files
  refine ⟨sameSurroundings_of_exec hnone run, fun a ha untouched => (leaves a untouched).trans (outside a ha), ?_,
    fun untouched => by rw [leaves _ untouched, control], fun untouched => by rw [leaves _ untouched, status]⟩
  cases run
  exact spared_rbuf.oscillatorOn (fun _ _ => rfl) (fun _ _ => rfl) hnone fun _ hu =>
    spared_rbuf.readModifyWrite (fun _ _ => rfl) (fun _ _ => rfl) hu _

end Sys2Proof.Proofs
end

section
/-! SUPPORT. What a successful command has gone through, and with it the bytes its buffers hold at the end (R23, log entry
15). -/

namespace Sys2Proof.Machine

open Sys2Proof

variable {s t : State} {r : Access}

/-! ## Buffers -/

/-- The bytes put into a buffer stand before what is left of the old ones. -/
theorem overlay_toList {n : Nat} (v : List Byte) (old : Vector Byte n) (fits : v.length ≤ n) :
    (overlay v old).toList = v ++ old.toList.drop v.length := by
  refine List.ext_getElem (by simp; omega) fun i hi _ => ?_
  have bound : i < n := by simpa using hi
  simp only [overlay, Fin.getElem_fin, Vector.getElem_toList, Vector.getElem_ofFn, List.getElem_append, List.getElem_drop]
  split
  · next inside => rw [List.getD_eq_getElem _ _ inside]
  · next outside =>
    rw [List.getD_eq_default _ _ (by omega)]
    simp only [show v.length + (i - v.length) = i by omega]

/-- A whole buffer of bytes leaves nothing of the old ones. -/
theorem overlay_toList_full {n : Nat} (v : List Byte) (old : Vector Byte n) (full : v.length = n) :
    (overlay v old).toList = v := by
  rw [overlay_toList v old full.le, List.drop_eq_nil_of_le (by simp [full]), List.append_nil]

/-- Two bytes put into a buffer leave the others. -/
theorem overlay_two_drop {n : Nat} (a b : Byte) (old : Vector Byte n) (fits : 2 ≤ n) :
    (overlay [a, b] old).toList.drop 2 = old.toList.drop 2 := by
  rw [overlay_toList _ _ fits]; rfl

/-! ## A successful command's way -/

/-- A command that succeeds after a read has got its bytes. -/
theorem memRead_of_success (hnone : s.resetDue = none) {code : TransportFailure → ResultCode}
    (hcode : ∀ f, code f ≠ .success) {k : List Byte → State → State}
    (success : ((memRead r s).andThen code k).code = some .success) :
    (memRead r s).andThen code k = k (s.devNow.readRun r.addr r.len)
      (s.completed (.read r.addr r.len .ok (s.devNow.readRun r.addr r.len)) (s.devNow.own (s.turnAt 0).after)) := by
  have now := State.resetNow_of_none hnone
  cases status : (s.turnAt 0).status with
  | ok => rw [memRead_of_ok r now status]; rfl
  | failed f =>
    rw [memRead_of_failed r now status] at success
    exact absurd success (State.code_raise_ne (hcode f) _)

theorem readByte_of_success (hnone : s.resetDue = none) (len : r.len = 1) {k : Byte → State → State}
    (success : (readByte r s k).code = some .success) :
    readByte r s k = k (s.devNow.read r.addr)
      (s.completed (.read r.addr 1 .ok [s.devNow.read r.addr]) (s.devNow.own (s.turnAt 0).after)) := by
  have way := memRead_of_success hnone propagate_ne_success success
  rw [readRun_one _ len, len] at way
  exact way

/-- A command that succeeds after a write has stored its bytes. -/
theorem writeBytes_of_success (hnone : s.resetDue = none) {v : List Byte} {k : State → State}
    (success : (writeBytes r v s k).code = some .success) :
    writeBytes r v s k = k ((s.setWbuf (writeBuffer r v)).completed (.write (writeBuffer r v) (v.length + 1) .ok)
      ((s.devNow.writeRun r.addr v).own (s.turnAt 0).after)) := by
  have now := State.resetNow_of_none hnone
  cases status : (s.turnAt 0).status with
  | ok => rw [writeBytes, memWrite_of_ok r v now status]; rfl
  | failed f =>
    rw [writeBytes, memWrite_of_failed r v now status] at success
    exact absurd success (State.code_raise_ne (propagate_ne_success f) _)

/-- `t` is `s` after a successful run of the read-modify-write engine: the byte read is in `LATCH`, the write-back computed
from it in `WBUF`, and both transactions are on the bus. -/
structure WroteBack (s : State) (r : Access) (edit : Byte → Byte) (t : State) : Prop where
  latch : t.latch = s.devNow.read r.addr
  wbuf : t.wbuf.toList = [BitVec.ofNat 8 r.addr, edit t.latch] ++ s.wbuf.toList.drop 2
  bus : t.bus = s.bus ++ [.read r.addr 1 .ok [t.latch], .write [BitVec.ofNat 8 r.addr, edit t.latch] 2 .ok]

theorem wroteBack_of_success (hnone : s.resetDue = none) (len : r.len = 1) {edit : Byte → Byte}
    (success : (readModifyWrite r edit s).code = some .success) : WroteBack s r edit (readModifyWrite r edit s) := by
  have read := readByte_of_success hnone len success
  rw [readModifyWrite, read] at success ⊢
  have written := writeBytes_of_success (by exact hnone) success
  rw [written, State.respond_of_none (by exact hnone)]
  exact ⟨rfl, overlay_toList _ _ (by simp), List.append_assoc _ _ _⟩

/-- The oscillator step of a successful command hands on a state with nothing due, the same masks, and `WBUF` as it was
behind its first two bytes. -/
theorem oscillatorOn_of_success (hnone : s.resetDue = none) {k : State → State}
    (success : (oscillatorOn s k).code = some .success) :
    ∃ u, oscillatorOn s k = k u ∧ u.resetDue = none ∧ u.masks = s.masks
      ∧ u.wbuf.toList.drop 2 = s.wbuf.toList.drop 2 := by
  rw [oscillatorOn_eq] at success ⊢
  have read := readByte_of_success hnone rfl success
  rw [read] at success ⊢
  split at success
  · next set =>
    rw [if_pos set, writeBytes_of_success (by exact hnone) success]
    exact ⟨_, rfl, hnone, rfl, overlay_two_drop _ _ _ (by decide)⟩
  · next clear =>
    rw [if_neg clear]
    exact ⟨_, rfl, hnone, rfl, rfl⟩

end Sys2Proof.Machine

/-! ## The statement -/

namespace Sys2Proof.Proofs

open Sys2Proof Sys2Proof.Machine

/-- Settles O53: each command that moves bytes is followed along its successful way. -/
theorem transientRegistersHoldTheBytesMoved : Obligations.TransientRegistersHoldTheBytesMoved := by
  intro i s t hnone run success dev
  have collapsed (f : TransportFailure) : collapse f ≠ .success := by cases f <;> decide
  have engine {r : Access} {edit : Byte → Byte} (len : r.len = 1) (shape : exec i s = .next (readModifyWrite r edit s)) :
      t.latch = dev.read r.addr ∧ t.wbuf.toList = [BitVec.ofNat 8 r.addr, edit t.latch] ++ s.wbuf.toList.drop 2 := by
    cases run.symm.trans shape
    have back := wroteBack_of_success hnone len success
    exact ⟨back.latch, back.wbuf⟩
  have write {r : Access} {v : List Byte} (fits : (writeBuffer r v).length ≤ 8)
      (shape : exec i s = .next (writeBytes r v s fun s => s.respond 0)) :
      t.wbuf.toList = writeBuffer r v ++ s.wbuf.toList.drop (v.length + 1) := by
    cases run.symm.trans shape
    rw [writeBytes_of_success hnone success, State.respond_of_none (by exact hnone)]
    exact overlay_toList _ _ fits
  refine ⟨?_, ?_, fun x hi => ?_, ?_, fun mask hi => ?_, fun mask hi => ?_, fun mask hi => ?_, fun rs hi => ?_,
    fun hi => ?_, ?_⟩
  · rintro rfl
    cases run.symm.trans (exec_readTime_true s)
    rw [memRead_of_success hnone propagate_ne_success success, State.respond_of_none (by exact hnone)]
    exact overlay_toList_full _ _ (by simp [Access.len])
  · rintro rfl
    cases run.symm.trans (exec_getTemp_true s)
    rw [memRead_of_success hnone collapsed success, State.respond_of_none (by exact hnone)]
    exact overlay_toList _ _ (by simp [Access.len])
  · exact write (by simp) (hi ▸ exec_setAging x s)
  · rintro year month date weekday hour minute second rfl
    let record : TimeRecord := ⟨year, month, date, weekday, hour, minute, second⟩
    by_cases valid : record.valid = true
    · have whole := write (r := .time) (v := record.registers) le_rfl (exec_setTime_of_valid valid s)
      rw [List.drop_eq_nil_of_le (by simp [record, TimeRecord.registers]), List.append_nil] at whole
      exact whole
    · cases run.symm.trans (exec_setTime_of_invalid valid s)
      exact absurd success (State.code_raise_ne (by decide) s)
  · exact engine (r := .status) rfl (hi ▸ exec_clearStatus mask s)
  · exact engine (r := .control) rfl (hi ▸ exec_updateControl mask s)
  · exact engine (r := .control) rfl (hi ▸ exec_clearControl mask s)
  · rw [← editRate_eq]
    exact engine (r := .control) rfl (hi ▸ exec_setSqwFreq rs s)
  · exact engine (r := .status) rfl (hi ▸ exec_enable32khz_false s)
  · rintro rfl
    cases run.symm.trans (exec_enable32khz_true s)
    obtain ⟨u, way, due, masks, wbuf⟩ := oscillatorOn_of_success hnone success
    rw [way, switchOutput_true, masks] at success ⊢
    have back := wroteBack_of_success due rfl success
    exact ⟨⟨u.bus, back.bus⟩, wbuf ▸ back.wbuf⟩

end Sys2Proof.Proofs
end

section
/-! SUPPORT. The bytes SET_TIME and SET_SQW_FREQ write, as arithmetic and as masks (R9, R31, R121, R124, R170), and the
statements about them. -/

namespace Sys2Proof.Machine

open Sys2Proof

/-! ## Masks of low and high bits -/

/-- A mask of the low `k` bits changes no smaller number. -/
theorem and_lowMask {b : Byte} {k : Nat} (small : b.toNat < 2 ^ k) (fits : 2 ^ k ≤ 256) :
    b &&& BitVec.ofNat 8 (2 ^ k - 1) = b := by
  refine BitVec.eq_of_toNat_eq ?_
  rw [BitVec.toNat_and, BitVec.toNat_ofNat, Nat.mod_eq_of_lt (by omega), Nat.and_two_pow_sub_one_of_lt_two_pow small]

/-- A mask that misses the low `k` bits clears every smaller number. -/
theorem and_highMask {b m : Byte} {k : Nat} (small : b.toNat < 2 ^ k) (fits : 2 ^ k ≤ 256)
    (apart : BitVec.ofNat 8 (2 ^ k - 1) &&& m = 0) : b &&& m = 0 := by
  rw [← and_lowMask small fits, BitVec.and_assoc, apart]
  exact BitVec.and_zero

/-! ## The bytes of a legal time -/

/-- No mask of SET_TIME or READ_TIME changes the encoding of a field in its range (R121, R122, R124). -/
structure TimeRecord.Fits (t : TimeRecord) : Prop where
  seconds : (bcdEnc t.seconds).toNat < 2 ^ 7
  minutes : (bcdEnc t.minutes).toNat < 2 ^ 7
  hours : (bcdEnc t.hours).toNat < 2 ^ 6
  weekday : (bcdEnc t.weekday).toNat < 2 ^ 3
  date : (bcdEnc t.date).toNat < 2 ^ 6
  month : (bcdEnc t.month).toNat < 2 ^ 7

theorem TimeRecord.fits_of_valid {t : TimeRecord} (valid : t.valid = true) : t.Fits := by
  obtain ⟨seconds, minutes, hours, -, weekday, -, date, -, month, -⟩ := t.valid_iff.1 valid
  refine ⟨?_, ?_, ?_, ?_, ?_, ?_⟩ <;> rw [bcdEnc_toNat (by omega)] <;> omega

theorem TimeRecord.registers_of_valid {t : TimeRecord} (valid : t.valid = true) :
    t.registers = [bcdEnc t.seconds, bcdEnc t.minutes, bcdEnc t.hours, bcdEnc t.weekday, bcdEnc t.date, bcdEnc t.month,
      bcdEnc t.year] := by
  have fits := fits_of_valid valid
  have seconds : bcdEnc t.seconds &&& 0x7F = bcdEnc t.seconds := and_lowMask fits.seconds (by decide)
  have minutes : bcdEnc t.minutes &&& 0x7F = bcdEnc t.minutes := and_lowMask fits.minutes (by decide)
  have hours : bcdEnc t.hours &&& 0x3F = bcdEnc t.hours := and_lowMask fits.hours (by decide)
  have weekday : bcdEnc t.weekday &&& 0x07 = bcdEnc t.weekday := and_lowMask fits.weekday (by decide)
  have date : bcdEnc t.date &&& 0x3F = bcdEnc t.date := and_lowMask fits.date (by decide)
  rw [TimeRecord.registers, seconds, minutes, hours, weekday, date]

/-- READ_TIME's decoding of the bytes SET_TIME writes (R114, R123). -/
theorem TimeRecord.ofRegisters_registers {t : TimeRecord} (valid : t.valid = true) :
    TimeRecord.ofRegisters t.registers = t := by
  have fits := fits_of_valid valid
  obtain ⟨seconds, minutes, hours, -, weekday, -, date, -, month, year⟩ := t.valid_iff.1 valid
  have field {d : Byte} {k : Nat} (m : Byte) (small : (bcdEnc d).toNat < 2 ^ k)
      (mask : m = BitVec.ofNat 8 (2 ^ k - 1)) (bits : 2 ^ k ≤ 256) (le : d.toNat ≤ 99) :
      bcdDec (bcdEnc d &&& m) = d := by
    rw [mask, and_lowMask small bits, bcdDec_bcdEnc le]
  rw [registers_of_valid valid]
  show TimeRecord.mk (bcdDec (bcdEnc t.year)) (bcdDec (bcdEnc t.month &&& 0x7F)) (bcdDec (bcdEnc t.date &&& 0x3F))
    (bcdDec (bcdEnc t.weekday &&& 0x07)) (bcdDec (bcdEnc t.hours &&& 0x3F)) (bcdDec (bcdEnc t.minutes &&& 0x7F))
    (bcdDec (bcdEnc t.seconds &&& 0x7F)) = t
  rw [bcdDec_bcdEnc year, field 0x7F fits.month rfl (by decide) (by omega),
    field 0x3F fits.date rfl (by decide) (by omega), field 0x07 fits.weekday rfl (by decide) (by omega),
    field 0x3F fits.hours rfl (by decide) (by omega), field 0x7F fits.minutes rfl (by decide) (by omega),
    field 0x7F fits.seconds rfl (by decide) (by omega)]

/-! ## The bits of a rate -/

theorem or_and_self (x y : Byte) : (x ||| y) &&& x = x := by
  refine BitVec.eq_of_getLsbD_eq fun i _ => ?_
  rw [BitVec.getLsbD_and, BitVec.getLsbD_or]
  cases x.getLsbD i <;> simp

/-- Clearing a mask clears every bit of it. -/
theorem and_not_and_of_subset {w e : Byte} (subset : w &&& e = e) (b : Byte) : b &&& ~~~w &&& e = 0 := by
  rw [← subset, BitVec.and_assoc, ← BitVec.and_assoc (~~~w), BitVec.and_comm (~~~w), BitVec.and_not_self,
    show (0 : Byte) &&& e = 0 from BitVec.zero_and]
  exact BitVec.and_zero

/-- The bits that SET_SQW_FREQ writes anew: `EOSC`, `INTCN` and the rate (R170). -/
def rewritten (m : Masks) : Byte := m.eosc ||| m.intcn ||| m.rsMask

theorem apart_rewritten {m : Masks} {k : Byte} (eosc : k &&& m.eosc = 0) (intcn : k &&& m.intcn = 0)
    (rate : k &&& m.rsMask = 0) : k &&& rewritten m = 0 := by
  rw [rewritten, BitVec.and_or_distrib_left, BitVec.and_or_distrib_left, eosc, intcn, rate]
  rfl

/-- What R9 says of the CONTROL masks that SET_SQW_FREQ writes: the rate fits the byte, and no two fields meet. -/
structure RateMasks (m : Masks) : Prop where
  shift : m.rsShift ≤ 6
  eosc : m.rsMask &&& m.eosc = 0
  intcn : m.rsMask &&& m.intcn = 0
  others : (m.bbsqw ||| m.conv ||| m.a2ie ||| m.a1ie) &&& rewritten m = 0

/-- R9 has every pair of CONTROL masks apart; a pair is named here by its two initials, the alarm enables being 1 and 2. -/
theorem rateMasks_of_wf {m : Masks} (wf : m.wf = true) : RateMasks m := by
  simp only [Masks.wf, Bool.and_eq_true, decide_eq_true_eq, disjointMasks] at wf
  obtain ⟨⟨⟨⟨-, shift⟩, pairs⟩, -⟩, -⟩ := wf
  simp only [Masks.control, List.pairwise_cons, List.forall_mem_cons] at pairs
  obtain ⟨⟨eb, ec, er, ei, e2, e1, -⟩, ⟨-, br, bi, -⟩, ⟨cr, ci, -⟩, ⟨ri, r2, r1, -⟩, ⟨i2, i1, -⟩, -⟩ := pairs
  have comm {a b : Byte} (h : a &&& b = 0) : b &&& a = 0 := BitVec.and_comm a b ▸ h
  refine ⟨shift, comm er, ri, ?_⟩
  rw [BitVec.and_or_distrib_right, BitVec.and_or_distrib_right, BitVec.and_or_distrib_right,
    apart_rewritten (comm eb) bi br, apart_rewritten (comm ec) ci cr, apart_rewritten (comm e2) (comm i2) (comm r2),
    apart_rewritten (comm e1) (comm i1) (comm r1)]
  rfl

/-- The rate field of a byte, moved to the low bits (R31). -/
theorem rateField_eq {m : Masks} (shift : m.rsShift ≤ 6) (b : Byte) : rateField m b = (b >>> m.rsShift &&& 0x3).toNat := by
  have field : ∀ n ≤ 6, (0x3#8 <<< n) >>> n = 0x3#8 := by decide
  rw [rateField, Masks.rsMask, BitVec.ushiftRight_and_distrib, field _ shift]
  rfl

theorem rateField_lt {m : Masks} (shift : m.rsShift ≤ 6) (b : Byte) : rateField m b < 4 := by
  rw [rateField_eq shift, BitVec.toNat_and]
  exact Nat.lt_succ_of_le Nat.and_le_right

/-- The byte of a rate, moved to its place, selects it (R31). -/
theorem rateField_shift {m : Masks} (shift : m.rsShift ≤ 6) {k : Nat} (small : k < 4) :
    rateField m (BitVec.ofNat 8 k <<< m.rsShift) = k := by
  have back : ∀ n ≤ 6, ∀ k < 4, ((BitVec.ofNat 8 k <<< n) >>> n &&& 0x3#8).toNat = k := by decide
  rw [rateField_eq shift]
  exact back _ shift _ small

/-- The frequency of a rate field (R31). -/
theorem hertz_rateSelected {m : Masks} (shift : m.rsShift ≤ 6) (b : Byte) : SqwRate.hertz (rateSelected m b)
    = if rateField m b = 0 then 1 else if rateField m b = 1 then 1024 else if rateField m b = 2 then 4096 else 8192 := by
  have small := rateField_lt shift b
  unfold rateSelected
  generalize rateField m b = k at small
  interval_cases k <;> rfl

/-- The byte written is the rate beside the byte read with the rewritten bits cleared. -/
theorem editRate_eq_rewritten (m : Masks) (rs b : Byte) :
    editRate m rs b = (b &&& ~~~rewritten m) ||| (rs &&& m.rsMask) := editRate_eq m rs b

/-- Under a mask of rewritten bits the byte written has the operand's rate bits. -/
theorem editRate_and_of_subset {m : Masks} {k : Byte} (subset : rewritten m &&& k = k) (rs b : Byte) :
    editRate m rs b &&& k = rs &&& (m.rsMask &&& k) := by
  rw [editRate_eq_rewritten, BitVec.and_or_distrib_right, and_not_and_of_subset subset, BitVec.and_assoc]
  exact BitVec.zero_or

/-- Every bit that is not rewritten is as read. -/
theorem editRate_and_not (m : Masks) (rs b : Byte) : editRate m rs b &&& ~~~rewritten m = b &&& ~~~rewritten m := by
  have rate : m.rsMask &&& ~~~rewritten m = 0 := by
    rw [rewritten, BitVec.not_or, ← BitVec.and_assoc, BitVec.and_comm m.rsMask, BitVec.and_assoc, BitVec.and_not_self]
    exact BitVec.and_zero
  rw [editRate_eq_rewritten, BitVec.and_or_distrib_right, BitVec.and_assoc, BitVec.and_self, BitVec.and_assoc, rate,
    show rs &&& (0 : Byte) = 0 from BitVec.and_zero]
  exact BitVec.or_zero

/-- A mask that misses a set of bits keeps itself when they are cleared. -/
theorem not_and_of_apart {w k : Byte} (apart : k &&& w = 0) : ~~~w &&& k = k := by
  rw [BitVec.and_comm]; exact clearBits_of_disjoint apart

end Sys2Proof.Machine

/-! ## The statements -/

namespace Sys2Proof.Proofs

open Sys2Proof Sys2Proof.Machine

/-- Settles O32: every encoding is below its field's highest bits. -/
theorem legalTimeBytesHaveNoReservedBit : Obligations.LegalTimeBytesHaveNoReservedBit := by
  intro t valid
  have fits := TimeRecord.fits_of_valid valid
  rw [TimeRecord.registers_of_valid valid]
  exact ⟨rfl, and_highMask fits.seconds (by decide) (by decide), and_highMask fits.minutes (by decide) (by decide),
    and_highMask fits.hours (by decide) (by decide), and_highMask fits.weekday (by decide) (by decide),
    and_highMask fits.date (by decide) (by decide), and_highMask fits.month (by decide) (by decide)⟩

/-- Settles O46: the byte written is the operand's rate beside the byte read with `EOSC`, `INTCN` and the rate cleared. -/
theorem writtenRateIsTheOperandsRate : Obligations.WrittenRateIsTheOperandsRate := by
  intro m rs b wf
  obtain ⟨shift, eosc, intcn, others⟩ := rateMasks_of_wf wf
  have rate : editRate m rs b &&& m.rsMask = rs &&& m.rsMask := by
    rw [editRate_and_of_subset (by rw [rewritten, BitVec.or_comm]; exact or_and_self _ _), BitVec.and_self]
  have field : rateField m (editRate m rs b) = rateField m rs := by rw [rateField, rateField, rate]
  refine ⟨fun k small => rateField_shift shift small, rate, field, rateField_lt shift rs, ?_, ?_, ?_,
    editRate_and_not m rs b, ?_⟩
  · rw [← field]
    exact hertz_rateSelected shift _
  · rw [editRate_and_of_subset (by rw [rewritten, BitVec.or_assoc]; exact or_and_self _ _), eosc]
    exact BitVec.and_zero
  · rw [editRate_and_of_subset (by rw [rewritten, BitVec.or_comm m.eosc, BitVec.or_assoc]; exact or_and_self _ _), intcn]
    exact BitVec.and_zero
  · rw [← not_and_of_apart others, ← BitVec.and_assoc, ← BitVec.and_assoc, editRate_and_not]

end Sys2Proof.Proofs
end

section
/-! SUPPORT. Commands beside the MOCK device (R58), one and two in a row, and the statements that follow a byte from a write
to a read (R123, R153, R181) or lose it between them (R240). -/

namespace Sys2Proof.Machine

open Sys2Proof

variable {s t : State} {i j : Instr} {r : Access}

/-! ## Reading a run back -/

theorem readRun_eq_map (m : Memory) (a n : Nat) : m.readRun a n = (List.range n).map fun k => m.read (a + k) := by
  induction n generalizing a with
  | zero => rfl
  | succ n ih =>
    rw [Memory.readRun, ih, List.range_succ_eq_map, List.map_cons, List.map_map]
    exact congrArg _ (List.map_congr_left fun k _ => congrArg m.read (by simp only [Nat.succ_eq_add_one]; omega))

/-- A run just written reads back. -/
theorem readRun_writeRun {m : Memory} (wf : m.wf = true) (stored : r ≠ .temp) {v : List Byte} (len : v.length = r.len) :
    (m.writeRun r.addr v).readRun r.addr r.len = v := by
  have fits := Access.fits stored
  rw [readRun_eq_map]
  refine List.ext_getElem (by simp [len]) fun k hk hv => ?_
  rw [List.getElem_map, List.getElem_range, Memory.read_writeRun wf _ _ (by omega), if_pos (by omega),
    Nat.add_sub_cancel_left, List.getD_eq_getElem _ _ hv]

/-! ## One command beside the MOCK device -/

theorem mock_status (mock : s.MockDevice) (k : Nat) : (s.turnAt k).status = .ok := by rw [mock k]; rfl

theorem oneRead_mock {code : TransportFailure → ResultCode} {payload : List Byte → Field56}
    (h : OneRead i s r code payload) (mock : s.MockDevice) (run : exec i s = .next t) :
    t.response = some { code := .success, payload := payload (s.mem.readRun r.addr r.len) } := by
  obtain ⟨t', run', response, -⟩ := h.2 (mock_status mock 0)
  cases run.symm.trans run'
  rw [response, mock 0]
  rfl

theorem oneWrite_mock {v : List Byte} (h : OneWrite i s r v) (mock : s.MockDevice) (run : exec i s = .next t) :
    t.mem = s.mem.writeRun r.addr v := by
  obtain ⟨t', run', -, -, mem, -⟩ := h.2 (mock_status mock 0)
  cases run.symm.trans run'
  rw [mem, mock 0]
  rfl

theorem readThenWrite_mock {edit : Byte → Byte} (h : ReadThenWrite i s r edit) (mock : s.MockDevice)
    (run : exec i s = .next t) : t.code = some .success ∧ t.mem = s.mem.write r.addr (edit (s.mem.read r.addr)) := by
  obtain ⟨t', run', response, -, mem, -⟩ := h.2.2 (mock_status mock 0) (mock_status mock 1)
  cases run.symm.trans run'
  refine ⟨State.code_of_response response, ?_⟩
  rw [mem, mock 0, mock 1]
  rfl

/-! ## Two commands in a row -/

/-- The state that has accepted the host's next word, with no reset to come. -/
def State.begun (s : State) (w : Word64) : State := s.popHost.accept w none

/-- How two commands run one after the other: from `s`, over `u` between them, to `t`. -/
structure RunsTwo (s : State) (i j : Instr) (rest : List HostInput) (u t : State) : Prop where
  first : exec i (s.begun (encode i)) = .next u
  second : exec j (u.begun (encode j)) = .next t
  run : Host.Core.run Sys2Proof.core 2 s = .next t
  host : t.host = rest

theorem runsTwo {rest : List HostInput} (idle : s.phase = .idle)
    (up : s.host = .command (encode i) none :: .command (encode j) none :: rest) : ∃ u t, RunsTwo s i j rest u t := by
  obtain ⟨u, first⟩ := exec_next i (s.begun (encode i))
  obtain ⟨t, second⟩ := exec_next j (u.begun (encode j))
  have host {s t : State} {i : Instr} (run : exec i (s.begun (encode i)) = .next t) : t.host = s.host.tail :=
    (sameSurroundings_of_exec rfl run).2.1
  have up' : u.host = .command (encode j) none :: rest := by rw [host first, up]; rfl
  have step₁ : step s = .next u := (step_of_legal idle up (decode_encode i)).trans first
  have step₂ : step u = .next t := (step_of_legal (ended_of_exec first).phase up' (decode_encode j)).trans second
  exact ⟨u, t, first, second, (run_succ step₁).trans (run_succ step₂), by rw [host second, up']; rfl⟩

/-- Beside the MOCK device the second command meets the MOCK device too. -/
theorem RunsTwo.mock {rest : List HostInput} {u : State} (h : RunsTwo s i j rest u t) (mock : s.MockDevice) :
    (u.begun (encode j)).MockDevice :=
  have after : u.MockDevice := mockDevice_closed.exec (s := s.begun (encode i)) mock h.first
  after

end Sys2Proof.Machine

/-! ## The statements -/

namespace Sys2Proof.Proofs

open Sys2Proof Sys2Proof.Machine

/-- Settles O33: the run written reads back, and the decoder undoes the encoder on a legal record. -/
theorem readTimeReturnsWhatSetTimeWrote : Obligations.ReadTimeReturnsWhatSetTimeWrote := by
  intro s year month date weekday hour minute second rest idle mock wf up hSecond hMinute hHour hWeekday hWeekday' hDate
    hDate' hMonth hMonth' hYear
  let record : TimeRecord := ⟨year, month, date, weekday, hour, minute, second⟩
  have valid : record.valid = true :=
    record.valid_iff.2 ⟨hSecond, hMinute, hHour, hWeekday, hWeekday', hDate, hDate', hMonth, hMonth', hYear⟩
  obtain ⟨u, t, two⟩ := runsTwo idle up
  refine ⟨t, two.run, two.host, ?_⟩
  have written : u.mem = s.mem.writeRun Access.time.addr record.registers :=
    oneWrite_mock (s := s.begun _) (oneWrite_of_exec rfl (exec_setTime_of_valid valid _)) mock two.first
  obtain ⟨-, -, read⟩ := readTimeAnswersTheDecodedRegisters (u.begun (encode (.readTime true))) true rfl
  have decodes : OneRead (.readTime true) (u.begun (encode (.readTime true))) .time propagate
      fun v => (TimeRecord.ofRegisters v).payload := read rfl
  have response := oneRead_mock decodes (two.mock mock) two.second
  have back : (u.begun (encode (.readTime true))).mem.readRun Access.time.addr Access.time.len = record.registers := by
    show u.mem.readRun _ _ = _
    rw [written, readRun_writeRun wf (by decide) rfl]
  rw [response, back, TimeRecord.ofRegisters_registers valid]
  rfl

/-- Settles O41: the second read-modify-write reads the byte the first one wrote. -/
theorem updateThenClearLeavesTheMaskClear : Obligations.UpdateThenClearLeavesTheMaskClear := by
  intro s m rest idle mock wf up
  obtain ⟨u, t, two⟩ := runsTwo idle up
  have set : u.mem = s.mem.write 0x0E (setBits m (s.mem.read 0x0E)) :=
    (readThenWrite_mock (s := s.begun _) (readThenWrite_of_exec rfl rfl (exec_updateControl m _)) mock two.first).2
  obtain ⟨code, cleared⟩ := readThenWrite_mock (readThenWrite_of_exec rfl rfl (exec_clearControl m _)) (two.mock mock)
    two.second
  have byte : t.mem.read 0x0E = clearBits m (s.mem.read 0x0E) := by
    have cleared : t.mem = u.mem.write 0x0E (clearBits m (u.mem.read 0x0E)) := cleared
    have wf' : u.mem.wf = true := set ▸ Memory.wf_write wf (by decide) _
    rw [cleared, Memory.read_write wf', if_pos rfl, set, Memory.read_write wf, if_pos rfl]
    exact setBits_and_not m _
  refine ⟨t, two.run, code, byte, ?_⟩
  rw [byte]
  refine ⟨fun same => ?_, clearBits_of_disjoint⟩
  rw [← same, clearBits, BitVec.and_assoc, BitVec.and_comm (~~~m), BitVec.and_not_self]
  exact BitVec.and_zero

/-- Settles O49: the byte written reads back. -/
theorem getAgingReturnsWhatSetAgingWrote : Obligations.GetAgingReturnsWhatSetAgingWrote := by
  intro s x rest idle mock wf up
  obtain ⟨u, t, two⟩ := runsTwo idle up
  refine ⟨t, two.run, ?_⟩
  have written : u.mem = s.mem.writeRun Access.aging.addr [x] :=
    oneWrite_mock (s := s.begun _) (oneWrite_of_exec rfl (exec_setAging x _)) mock two.first
  have response := oneRead_mock (oneRead_of_getByte rfl (exec_getAging true _)) (two.mock mock) two.second
  have back : (u.begun (encode (.getAging true))).mem.readRun Access.aging.addr Access.aging.len = [x] := by
    show u.mem.readRun _ _ = _
    rw [written, readRun_writeRun wf (by decide) rfl]
  rw [response, back]
  rfl

/-- Settles O50: the write-back is computed from the byte read, in which the flag was clear. -/
theorem clearStatusCanLoseAFlag : Obligations.ClearStatusCanLoseAFlag := by
  intro s mask flag v hnone wf ok₀ ok₁ before₀ after₀ before₁ after₁ _ clear _
  obtain ⟨-, -, -, bothOk⟩ := clearStatusClearsTheMaskedBits s mask hnone
  obtain ⟨t, run, response, -, mem, -⟩ := bothOk ok₀ ok₁
  refine ⟨t, run, State.code_of_response response, ?_⟩
  have stored : t.mem = (s.mem.write 0x0F v).write 0x0F (clearBits mask (s.mem.read 0x0F)) := by
    rw [mem, before₀, after₀, before₁, after₁]
    rfl
  rw [stored, Memory.read_write (Memory.wf_write wf (by decide) v), if_pos rfl, clearBits, BitVec.and_assoc,
    BitVec.and_comm (~~~mask), ← BitVec.and_assoc, clear]
  exact BitVec.zero_and

end Sys2Proof.Proofs
end

section
/-! SUPPORT. The same command run from two states that differ in what earlier commands left in the block (R21), operation by
operation, and the statement that this difference does not show. -/

namespace Sys2Proof.Machine

open Sys2Proof

variable {s s' u u' : State} {r : Access}

/-! ## Two runs of one command -/

/-- `u` and `u'` are met at the same point of one command begun at `s` and at `s'`: they agree but for the latched word, the
transient registers, the host's inputs and the transactions before the command. -/
structure Alike (s s' u u' : State) : Prop where
  phase : u.phase = u'.phase
  resetDue : u.resetDue = u'.resetDue
  response : u.response = u'.response
  mem : u.mem = u'.mem
  script : u.script = u'.script
  rest : u.rest = u'.rest
  draws : u.draws = u'.draws
  masks : u.masks = u'.masks
  host : u.host = s.host
  host' : u'.host = s'.host
  bus : ∃ l, u.bus = s.bus ++ l ∧ u'.bus = s'.bus ++ l

namespace Alike

variable (h : Alike s s' u u')
include h

theorem resetNow : u.resetNow = u'.resetNow := by
  rw [State.resetNow, State.resetNow, State.issued, State.issued, h.phase, h.resetDue]

theorem turnAt (k : Nat) : u.turnAt k = u'.turnAt k := by
  rw [State.turnAt, State.turnAt, h.script, h.rest, h.draws]

theorem devNow : u.devNow = u'.devNow := by rw [State.devNow, State.devNow, h.mem, h.turnAt]

theorem setLatch (b : Byte) : Alike s s' (u.setLatch b) (u'.setLatch b) := { h with }

theorem setRbuf (v : List Byte) : Alike s s' (u.setRbuf v) (u'.setRbuf v) := { h with }

theorem setWbuf (v : List Byte) : Alike s s' (u.setWbuf v) (u'.setWbuf v) := { h with }

theorem draw : Alike s s' u.draw u'.draw := { h with draws := congrArg (· + 1) h.draws }

theorem blockReset : Alike s s' u.blockReset u'.blockReset :=
  { h with phase := rfl, resetDue := rfl, response := rfl }

theorem answer (c : ResultCode) (p : Field56) : Alike s s' (u.answer c p) (u'.answer c p) :=
  { h with phase := rfl, resetDue := rfl, response := rfl }

theorem completed (x : Transaction) (dev : Memory) : Alike s s' (u.completed x dev) (u'.completed x dev) where
  phase := by rw [State.completed_phase, State.completed_phase, State.issued, State.issued, h.phase]
  resetDue := h.resetDue
  response := h.response
  mem := rfl
  script := congrArg List.tail h.script
  rest := h.rest
  draws := by rw [State.completed_draws, State.completed_draws, h.script, h.draws]
  masks := h.masks
  host := h.host
  host' := h.host'
  bus := by
    obtain ⟨l, bus, bus'⟩ := h.bus
    exact ⟨l ++ [x], by rw [State.completed_bus, bus, List.append_assoc],
      by rw [State.completed_bus, bus', List.append_assoc]⟩

/-! ### The end of the command -/

theorem finish (c : ResultCode) (p : Field56) : Alike s s' (u.finish c p) (u'.finish c p) := by
  rw [State.finish, State.finish, h.resetNow]
  split
  · exact h.blockReset
  · exact h.answer c p

theorem respond (p : Field56) : Alike s s' (u.respond p) (u'.respond p) := h.finish .success p

theorem raise (c : ResultCode) : Alike s s' (u.raise c) (u'.raise c) := by
  rw [State.raise, State.raise, h.draws]
  exact h.draw.finish c _

/-! ### The operations -/

theorem memRead_andThen (r : Access) (code : TransportFailure → ResultCode) {k k' : List Byte → State → State}
    (go : ∀ v t t', Alike s s' t t' → Alike s s' (k v t) (k' v t')) :
    Alike s s' ((memRead r u).andThen code k) ((memRead r u').andThen code k') := by
  cases now : u.resetNow with
  | true =>
    rw [memRead_of_reset r now, memRead_of_reset r (h.resetNow ▸ now)]
    exact h.blockReset
  | false =>
    have now' : u'.resetNow = false := h.resetNow ▸ now
    cases status : (u.turnAt 0).status with
    | ok =>
      rw [memRead_of_ok r now status, memRead_of_ok r now' (h.turnAt 0 ▸ status), ← h.devNow, ← h.turnAt]
      exact go _ _ _ (h.completed _ _)
    | failed f =>
      rw [memRead_of_failed r now status, memRead_of_failed r now' (h.turnAt 0 ▸ status), ← h.devNow]
      exact (h.completed _ _).raise _

theorem readByte {k k' : Byte → State → State} (go : ∀ b t t', Alike s s' t t' → Alike s s' (k b t) (k' b t')) :
    Alike s s' (Machine.readByte r u k) (Machine.readByte r u' k') :=
  h.memRead_andThen r propagate fun v => go (byteAt v 0)

theorem writeBytes (v : List Byte) {k k' : State → State} (go : ∀ t t', Alike s s' t t' → Alike s s' (k t) (k' t')) :
    Alike s s' (Machine.writeBytes r v u k) (Machine.writeBytes r v u' k') := by
  rw [Machine.writeBytes, Machine.writeBytes]
  cases now : u.resetNow with
  | true =>
    rw [memWrite_of_reset r v now, memWrite_of_reset r v (h.resetNow ▸ now)]
    exact h.blockReset
  | false =>
    have now' : u'.resetNow = false := h.resetNow ▸ now
    cases status : (u.turnAt 0).status with
    | ok =>
      rw [memWrite_of_ok r v now status, memWrite_of_ok r v now' (h.turnAt 0 ▸ status), ← h.devNow, ← h.turnAt]
      exact go _ _ ((h.setWbuf _).completed _ _)
    | failed f =>
      rw [memWrite_of_failed r v now status, memWrite_of_failed r v now' (h.turnAt 0 ▸ status), ← h.devNow]
      exact ((h.setWbuf _).completed _ _).raise _

theorem withDestination (dp : Bool) {k k' : State → State} (go : Alike s s' (k u) (k' u')) :
    Alike s s' (Machine.withDestination dp u k) (Machine.withDestination dp u' k') := by
  cases dp with
  | false => exact h.raise _
  | true => exact go

theorem getByte (dp : Bool) : Alike s s' (Machine.getByte r dp u) (Machine.getByte r dp u') :=
  h.withDestination dp (h.readByte fun _ _ _ ht => ht.respond _)

theorem readModifyWrite (edit : Byte → Byte) :
    Alike s s' (Machine.readModifyWrite r edit u) (Machine.readModifyWrite r edit u') :=
  h.readByte fun b _ _ ht => (ht.setLatch b).writeBytes [edit b] fun _ _ hv => hv.respond 0

theorem oscillatorOn {k k' : State → State} (go : ∀ t t', Alike s s' t t' → Alike s s' (k t) (k' t')) :
    Alike s s' (Machine.oscillatorOn u k) (Machine.oscillatorOn u' k') := by
  rw [oscillatorOn_eq, oscillatorOn_eq]
  refine h.readByte fun b t t' ht => ?_
  rw [ht.masks]
  by_cases set : fieldSet t'.masks.eosc b = true
  · rw [if_pos set, if_pos set]
    exact (ht.setLatch b).writeBytes _ go
  · rw [if_neg set, if_neg set]
    exact go _ _ (ht.setLatch b)

/-- A command keeps the two runs alike. -/
theorem exec {i : Instr} {t t' : State} (run : Machine.exec i u = .next t) (run' : Machine.exec i u' = .next t') :
    Alike s s' t t' := by
  cases i <;> cases run <;> cases run'
  case bcdEnc d =>
    split
    · exact h.respond _
    · rw [h.draws]; exact h.draw.respond _
  case bcdDec => exact h.respond _
  case readTime dp =>
    exact h.withDestination dp (h.memRead_andThen .time propagate fun v _ _ ht => (ht.setRbuf v).respond _)
  case getTemp dp =>
    exact h.withDestination dp (h.memRead_andThen .temp collapse fun v _ _ ht => (ht.setRbuf v).respond _)
  case setTime =>
    split
    · exact h.writeBytes _ fun _ _ ht => ht.respond 0
    · exact h.raise _
  case setAging => exact h.writeBytes _ fun _ _ ht => ht.respond 0
  case getStatus dp | getControl dp | getAging dp => exact h.getByte dp
  case clearStatus | updateControl | clearControl => exact h.readModifyWrite _
  case setSqwFreq => rw [h.masks]; exact h.readModifyWrite _
  case enable32khz en =>
    cases en with
    | false =>
      show Alike s s' (Machine.readModifyWrite _ _ u) (Machine.readModifyWrite _ _ u')
      rw [h.masks]; exact h.readModifyWrite _
    | true =>
      refine h.oscillatorOn fun t t' ht => ?_
      rw [switchOutput_true, switchOutput_true, ht.masks]
      exact ht.readModifyWrite _

end Alike

end Sys2Proof.Machine

/-! ## The statement -/

namespace Sys2Proof.Proofs

open Sys2Proof Sys2Proof.Machine

/-- Settles O24: two states that have accepted the same word are alike, and every operation keeps them so. -/
theorem outcomeDoesNotDependOnEarlierCommands : Obligations.OutcomeDoesNotDependOnEarlierCommands := by
  intro s s' w resetAfter rest rest' idle idle' up up' mem script envRest draws masks
  obtain ⟨t, run, hidle⟩ := step_of_idle idle
  obtain ⟨t', run', hidle'⟩ := step_of_idle idle'
  have start : Alike (s.popHost.accept w resetAfter) (s'.popHost.accept w resetAfter) (s.popHost.accept w resetAfter)
      (s'.popHost.accept w resetAfter) :=
    ⟨rfl, rfl, rfl, mem, script, envRest, draws, masks, rfl, rfl, [], (List.append_nil _).symm, (List.append_nil _).symm⟩
  have alike : Alike (s.popHost.accept w resetAfter) (s'.popHost.accept w resetAfter) t t' := by
    cases legal : decode w with
    | ok i =>
      rw [step_of_legal idle up legal] at run
      rw [step_of_legal idle' up' legal] at run'
      exact start.exec run run'
    | error e =>
      rw [step_of_illegal idle up legal] at run
      rw [step_of_illegal idle' up' legal] at run'
      cases run
      cases run'
      exact start.raise _
  obtain ⟨l, bus, bus'⟩ := alike.bus
  exact ⟨t, t', l, run, run', alike.response, bus, bus', hidle, hidle', alike.host.trans (congrArg List.tail up),
    alike.host'.trans (congrArg List.tail up'), alike.mem, alike.script, alike.rest, alike.draws, alike.masks⟩

end Sys2Proof.Proofs
end
